-- ==== Sys2Proof/Word.lean ====
section
/-! DEFINITION. The word types of PMSM: bits, bytes, intensity cells and the four kinds of selector word
(`00_scope.md` R9, R12; `20_memory.md` R60; `30_encoding.md` R101). -/

namespace Sys2Proof

/-- One cell of BITS: a single bit (R37). -/
abbrev Bit := BitVec 1

/-- A payload byte, a GRID cell, a frame byte, or one draw of width `CW = 8` (R9). -/
abbrev Byte := BitVec 8

/-- One cell of INT, of width `IW = 9`, unsigned (R38). -/
abbrev Intensity := BitVec 9

/-- A value of register PHASE or ERRSTAGE (R21, R23). -/
abbrev PhaseCode := BitVec 4

/-- A value of register ERR (R22). -/
abbrev ErrCode := BitVec 3

/-- A sequencer selector: PHASE in bits 4 to 1, ATEND in bit 0 (R102). -/
abbrev SeqWord := BitVec 5

/-- A host command word: `op` in bits 9 to 8, `d` in bits 7 to 0 (R104). -/
abbrev CmdWord := BitVec 10

/-- A status register number (R106). -/
abbrev RegNum := BitVec 4

end Sys2Proof
end

