-- ==== Sys2Proof/Config.lean ====
section
/-! DEFINITION. The parameters of PMSM (`00_scope.md` R9): the FIXED ones as constants, the OPEN ones as a
structure of numbers, and the parameters of the machine as built, which nothing fixes. -/

namespace Sys2Proof.Config

/-- `DRAW_LO`, the lower bound every draw is asked with (R9, R151). -/
def drawLo : Nat := 1

/-- `DRAW_HI`, the upper bound every draw is asked with (R9, R151). -/
def drawHi : Nat := 254

/-- `MAXVAL`, the upper bound of the clamp (R9, R171). -/
def maxVal : Nat := 255

/-- `SENTINEL`, the value of a padding cell (R9, R173). -/
def sentinel : Byte := 0

/-- `NL`, the one byte that ends each header line (R9, R95, conflict C1). -/
def newline : Byte := 0x0A

/-- The OPEN parameters, the capacities of the four buffers (R9, D2). `PAYLOAD_CAP` is at least 1, so it is held
as its predecessor; the other three are any natural. -/
structure Params where
  /-- `PAYLOAD_CAP` minus 1. -/
  payloadCapPred : Nat
  /-- `BITS_CAP`, in bits. -/
  bitsCap : Nat
  /-- `INT_CAP`, in cells. -/
  intCap : Nat
  /-- `GRID_CAP`, in cells. -/
  gridCap : Nat
deriving DecidableEq, Repr, Inhabited

/-- `PAYLOAD_CAP`, in bytes, at least 1 (R9). -/
def Params.payloadCap (p : Params) : Nat := p.payloadCapPred + 1

/-- The capacities of the machine as built. The spec leaves them OPEN (R9, U13), so this constant has no body:
nothing can be proved of its value (log 10). -/
opaque built : Params

end Sys2Proof.Config
end

