-- ==== Sys2Proof/Syntax.lean ====
section
/-! DEFINITION. The operations of PMSM, one constructor for each row of `opcode_table.json`, and the selectors that
pick them (`30_encoding.md` R101). -/

namespace Sys2Proof

/-- An operation: eleven sequencer micro-operations, three host commands, the status read and the reset. -/
inductive Instr where
  /-- PACK.BIT: one bit to BITS (R143). -/
  | packBit
  /-- PACK.END: checks INT's capacity, goes to ENCODE (R144). -/
  | packEnd
  /-- ENC.SYM: one draw, one intensity to INT (R156). -/
  | encSym
  /-- ENC.END: goes to DIM (R157). -/
  | encEnd
  /-- LAY.DIM: derives W and H (R176). -/
  | layDim
  /-- LAY.CELL: one cell to GRID (R178). -/
  | layCell
  /-- LAY.END: goes to HEADER (R179). -/
  | layEnd
  /-- SER.HDR: offers one header byte to the sink (R189). -/
  | serHdr
  /-- SER.HEND: goes to BODY (R190). -/
  | serHend
  /-- SER.PIX: offers one pixel byte to the sink (R192). -/
  | serPix
  /-- SER.END: goes to DONE (R194). -/
  | serEnd
  /-- NOP (R204). -/
  | nop
  /-- LOAD d: appends the byte to PAY (R205). -/
  | load (d : Byte)
  /-- START: starts the run (R206). -/
  | start
  /-- RD r: reads status register number r (R207). -/
  | rd (r : RegNum)
  /-- RST: the reset transaction (R250). -/
  | rst
deriving DecidableEq, Repr

/-- What selects an operation, in the four formats of R101. -/
inductive Selector where
  /-- Format SEQ: PHASE and ATEND (R102). -/
  | seq (w : SeqWord)
  /-- Format CMD: a host command word (R104). -/
  | cmd (w : CmdWord)
  /-- Format RD: a status register number (R106). -/
  | rd (w : RegNum)
  /-- Format RST: the level of the reset input (R101). -/
  | rst (w : BitVec 1)
deriving DecidableEq, Repr

end Sys2Proof
end

