-- ==== Sys2Proof/WellFormed.lean ====
section
/-! DEFINITION. Which operations name only what exists: a status read names one of the ten registers. -/

namespace Sys2Proof

/-- The numbers 0 to 9 name a register, 10 to 15 are reserved (R106, R108). -/
def regNumOk (r : RegNum) : Bool := decide (r.toNat ≤ 9)

/-- Every operand form but RD's is total: LOAD takes every byte (R205) and no other operation has an operand (R107). -/
def Instr.wellFormed : Instr → Bool
  | .rd r => regNumOk r
  | .load _ => true
  | .packBit | .packEnd | .encSym | .encEnd | .layDim | .layCell | .layEnd => true
  | .serHdr | .serHend | .serPix | .serEnd | .nop | .start | .rst => true

end Sys2Proof
end

