-- ==== Sys2Proof/Decode.lean ====
section
/-! DEFINITION. From a selector to an operation and back (`30_encoding.md` R102 to R108). Decoding is total and
rejects by name; the encoder writes the selector of each operation with every ignored bit 0. -/

namespace Sys2Proof

/-- Why a selector picks no operation. -/
inductive DecodeError where
  /-- PHASE is IDLE, DONE or ERROR: no micro-operation is enabled (R103, R121). -/
  | noMicroOperation
  /-- PHASE is 9 to 15, reserved (R108). -/
  | reservedPhase
  /-- The command word has `op = 11`, reserved (R105, R108). -/
  | reservedCommand
  /-- The reset input is low. -/
  | resetNotAsserted
deriving DecidableEq, Repr

/-- The SEQ table (R103): bits 4 to 1 are PHASE, bit 0 is ATEND, which DIM ignores. -/
def decodeSeq (w : SeqWord) : Except DecodeError Instr :=
  let phase := w.extractLsb' 1 4
  let atEnd := w.getLsbD 0
  match phase.toNat, atEnd with
  | 1, false => .ok .packBit
  | 1, true => .ok .packEnd
  | 2, false => .ok .encSym
  | 2, true => .ok .encEnd
  | 3, _ => .ok .layDim
  | 4, false => .ok .layCell
  | 4, true => .ok .layEnd
  | 5, false => .ok .serHdr
  | 5, true => .ok .serHend
  | 6, false => .ok .serPix
  | 6, true => .ok .serEnd
  | 0, _ | 7, _ | 8, _ => .error .noMicroOperation
  | _, _ => .error .reservedPhase

/-- The CMD table (R105): bits 9 to 8 are `op`; bits 7 to 0 are LOAD's byte and are ignored by NOP and START. -/
def decodeCmd (w : CmdWord) : Except DecodeError Instr :=
  match (w.extractLsb' 8 2).toNat with
  | 0 => .ok .nop
  | 1 => .ok (.load (w.extractLsb' 0 8))
  | 2 => .ok .start
  | _ => .error .reservedCommand

/-- The decoder, total on every selector. Every number of format RD is a status read (R106); the reserved numbers
are ill-formed operands, which the read itself refuses (R207, log 17). -/
def decode : Selector → Except DecodeError Instr
  | .seq w => decodeSeq w
  | .cmd w => decodeCmd w
  | .rd r => .ok (.rd r)
  | .rst w => if w = 1 then .ok .rst else .error .resetNotAsserted

/-- A sequencer selector from its two fields (R102). -/
def seqWord (phase : PhaseCode) (atEnd : Bool) : SeqWord := phase ++ BitVec.ofBool atEnd

/-- A command word from its two fields (R104). -/
def cmdWord (op : BitVec 2) (d : Byte) : CmdWord := op ++ d

/-- The selector of an operation, its ignored bits 0 (R103, R105, R106, R101). -/
def encode : Instr → Selector
  | .packBit => .seq (seqWord 1 false)
  | .packEnd => .seq (seqWord 1 true)
  | .encSym => .seq (seqWord 2 false)
  | .encEnd => .seq (seqWord 2 true)
  | .layDim => .seq (seqWord 3 false)
  | .layCell => .seq (seqWord 4 false)
  | .layEnd => .seq (seqWord 4 true)
  | .serHdr => .seq (seqWord 5 false)
  | .serHend => .seq (seqWord 5 true)
  | .serPix => .seq (seqWord 6 false)
  | .serEnd => .seq (seqWord 6 true)
  | .nop => .cmd (cmdWord 0 0)
  | .load d => .cmd (cmdWord 1 d)
  | .start => .cmd (cmdWord 2 0)
  | .rd r => .rd r
  | .rst => .rst 1

/-- A selector with its ignored bits cleared: ATEND in DIM (R102), the data byte of NOP and of START (R105). -/
def Selector.canonical : Selector → Selector
  | .seq w => if w.extractLsb' 1 4 = 3 then .seq (seqWord 3 false) else .seq w
  | .cmd w =>
    if w.extractLsb' 8 2 = 0 ∨ w.extractLsb' 8 2 = 2 then .cmd (cmdWord (w.extractLsb' 8 2) 0) else .cmd w
  | .rd r => .rd r
  | .rst w => .rst w

/-- Whether a sequencer selector picks a micro-operation (R103). -/
def seqPicks (w : SeqWord) : Bool :=
  match decodeSeq w with
  | .ok _ => true
  | .error _ => false

/-- The selector that a word of the opcode table stands for, given how many bits the table gives its row. The formats
have widths 5, 10, 4 and 1 (R109), and a width alone picks the format where it is one of these. In whole bytes a
command word is 16 bits and the other three formats share 8; among those a word is a sequencer selector where R103
gives it a micro-operation, then the reset input, then a register number (log 12). -/
def tableSelector (nbits w : Nat) : Option Selector :=
  if nbits = 16 ∨ nbits = 10 then
    if w < 1024 then some (.cmd (BitVec.ofNat 10 w)) else none
  else if nbits = 5 then
    if w < 32 then some (.seq (BitVec.ofNat 5 w)) else none
  else if nbits = 4 then
    if w < 16 then some (.rd (BitVec.ofNat 4 w)) else none
  else if nbits = 1 then
    if w < 2 then some (.rst (BitVec.ofNat 1 w)) else none
  else if nbits = 8 then
    if w < 32 ∧ seqPicks (BitVec.ofNat 5 w) = true then some (.seq (BitVec.ofNat 5 w))
    else if w = 1 then some (.rst 1)
    else if w < 16 then some (.rd (BitVec.ofNat 4 w))
    else none
  else none

/-- The operation the decoder reads from a row of the opcode table whose bits are `w`. -/
def decodeTableWord (nbits w : Nat) : Option Instr :=
  match tableSelector nbits w with
  | some sel => (decode sel).toOption
  | none => none

end Sys2Proof
end

