-- ==== Sys2Proof/Machine/State.lean ====
section
/-! DEFINITION. The state of PMSM as plain data (`10_state.md` R20), with the environment's side of its four ports,
the reasons a step can stop, and the machine right after reset (R45, R250). -/

namespace Sys2Proof.Machine

/-! ## Register codes -/

/-- The codes of register PHASE (R21). -/
abbrev phIdle : PhaseCode := 0
/-- PHASE while bits are written to BITS (R21). -/
abbrev phPack : PhaseCode := 1
/-- PHASE while intensities are written to INT (R21). -/
abbrev phEncode : PhaseCode := 2
/-- PHASE while W and H are about to be derived (R21). -/
abbrev phDim : PhaseCode := 3
/-- PHASE while cells are written to GRID (R21). -/
abbrev phFill : PhaseCode := 4
/-- PHASE while header bytes are emitted (R21). -/
abbrev phHeader : PhaseCode := 5
/-- PHASE while pixel bytes are emitted (R21). -/
abbrev phBody : PhaseCode := 6
/-- PHASE after a run that ended well (R21). -/
abbrev phDone : PhaseCode := 7
/-- PHASE after a run that ended with an error (R21). -/
abbrev phError : PhaseCode := 8

/-- The four errors of the block (R220, R221). -/
inductive ErrKind where
  | emptySource
  | allocation
  | emptyInput
  | io
deriving DecidableEq, Repr

/-! ## Buffers -/

/-- The four address spaces (R60). -/
inductive Space where
  | pay
  | bits
  | int
  | grid
deriving DecidableEq, Repr

/-- A buffer of `n`-bit cells: its written cells as (index, value) pairs, indices strictly rising. `Memory 8` is a list
of `Host.Cell`. -/
abbrev Memory (n : Nat) := List (Nat × BitVec n)

/-! ## The ports -/

/-- One turn of the machine as the host leaves or uses it (R16, R78): the sequencer's turn, or one host transaction. -/
inductive HostTurn where
  /-- The host issues nothing: the sequencer's turn. -/
  | sequencer
  /-- A command word on the host command port (R104). -/
  | cmd (w : CmdWord)
  /-- A status read (R106). -/
  | rd (r : RegNum)
  /-- The reset input (R250). -/
  | rst
deriving DecidableEq, Repr

/-- The answer of the host port to a transaction (R201, R207). -/
inductive Reply where
  | accepted
  | refused
  | value (n : Nat)
deriving DecidableEq, Repr

/-- One request on the randomness port, `Draw(lo, hi)`: the closed range PMSM asks a value from (R107, R209). -/
structure DrawRequest where
  lo : Nat
  hi : Nat
deriving DecidableEq, Repr

/-- The sink's answer to one `Emit` (R210). -/
inductive SinkAnswer where
  | accept
  | fail
deriving DecidableEq, Repr

/-! ## The state -/

/-- The state of PMSM (R20), the recorded histories, and the environment's inputs still to come. -/
structure State where
  /-- PHASE (R21). -/
  phase : PhaseCode
  /-- ERR (R22). -/
  err : ErrCode
  /-- ERRSTAGE (R23). -/
  errStage : PhaseCode
  /-- PLEN (R24). -/
  plen : Nat
  /-- NBITS (R25). -/
  nbits : Nat
  /-- NINT (R26). -/
  nint : Nat
  /-- W (R27). -/
  w : Nat
  /-- H (R28). -/
  h : Nat
  /-- IDX (R29). -/
  idx : Nat
  /-- OUTCNT (R30). -/
  outcnt : Nat
  /-- PAY (R36). -/
  pay : Memory 8
  /-- BITS (R37). -/
  bits : Memory 1
  /-- INT (R38). -/
  int : Memory 9
  /-- GRID (R39). -/
  grid : Memory 8
  /-- OUT: the bytes the sink has accepted since reset, in order (R41). -/
  out : List Byte
  /-- The model's own: the capacities the machine was built with (R9, log 10). No step changes them (R256). -/
  cfg : Config.Params
  /-- The model's own: the turns still to come, first first; when it is empty every turn is the sequencer's (log 1). -/
  host : List HostTurn
  /-- The model's own: the last answer given on the host port (R201, log 11). -/
  reply : Option Reply
  /-- The model's own: the randomness source's answers still to come (R42, log 2). -/
  draws : List Byte
  /-- The model's own: the draws taken since reset, in order (R130 I7, log 2). -/
  drawn : List Byte
  /-- The model's own: the requests those draws answered, in order, each with the bounds it carried (R107, R209, log 2). -/
  asked : List DrawRequest
  /-- The model's own: the sink's answers still to come (R43, log 3). -/
  sink : List SinkAnswer
deriving DecidableEq, Repr

/-! ## How a step can stop -/

/-- Why the model stops. No state that a run from reset reaches raises one of these. -/
inductive Fault where
  /-- Raised by MemRead at a cell that nothing has written since reset (R40, U6). Safe: the machine has no rule there. -/
  | unwrittenCell (space : Space) (index : Nat)
  /-- Raised by MemWrite at an index past the buffer's capacity, a cell that does not exist (R60, R67). Safe. -/
  | noSuchCell (space : Space) (index : Nat)
  /-- Raised by SER.HDR at an index past the header, a byte that does not exist (R188). Safe. -/
  | noHeaderByte (index : Nat)
  /-- Raised by the sequencer's turn when PHASE is 9 to 15: the spec gives such a state no step (R108, U8). Safe. -/
  | reservedPhase
deriving DecidableEq, Repr

/-- Why the model has no meaning for an operation. -/
inductive Refusal where
  /-- Raised by an arm of `exec` whose operation has no meaning yet. Safe. No arm raises it. -/
  | notModelled (mnemonic : String)
deriving DecidableEq, Repr

/-! ## Reset -/

/-- The machine right after reset, for given capacities (R45, R250). Every register is 0, every cell unwritten, OUT empty;
the environment has nothing pending (log 1, log 2, log 3, log 11). -/
def State.resetWith (cfg : Config.Params) : State where
  phase := phIdle
  err := 0
  errStage := 0
  plen := 0
  nbits := 0
  nint := 0
  w := 0
  h := 0
  idx := 0
  outcnt := 0
  pay := []
  bits := []
  int := []
  grid := []
  out := []
  cfg := cfg
  host := []
  reply := none
  draws := []
  drawn := []
  asked := []
  sink := []

/-- The machine right after reset, with the capacities it was built with. -/
def State.reset : State := State.resetWith Config.built

end Sys2Proof.Machine
end

