-- ==== Sys2Proof/Machine/Ops.lean ====
section
/-! DEFINITION. The shared operations of the block (`00_scope.md` R14): reading and writing a buffer cell, the port
exchanges, the error entry, the control transfer, the host port's answers, and the reset. -/

namespace Sys2Proof.Machine

/-- The outcome of one operation. -/
abbrev Result := Host.Outcome State Fault Refusal

/-! ## Buffers -/

/-- What a cell that no entry lists reads as: nothing (R40, D20). -/
def Memory.unlisted (n : Nat) : Option (BitVec n) := none

/-- The cell at an index, or nothing where it is unwritten. -/
def Memory.read {n : Nat} : Memory n → Nat → Option (BitVec n)
  | [], _ => Memory.unlisted n
  | (j, v) :: rest, i => if i = j then some v else Memory.read rest i

/-- The buffer with the cell at an index written. -/
def Memory.write {n : Nat} : Memory n → Nat → BitVec n → Memory n
  | [], i, v => [(i, v)]
  | (j, u) :: rest, i, v =>
    if i < j then (i, v) :: (j, u) :: rest
    else if i = j then (i, v) :: rest
    else (j, u) :: Memory.write rest i v

/-- Whether every listed index is above `lo`. -/
def Memory.above {n : Nat} (lo : Nat) (m : Memory n) : Bool := m.all (fun c => decide (lo < c.1))

/-- The canonical form: indices strictly rising. An unwritten cell holds no value, so no listed value equals it. -/
def Memory.wf {n : Nat} : Memory n → Bool
  | [] => true
  | (j, _) :: rest => Memory.above j rest && Memory.wf rest

/-- The first `len` cells of a buffer, in index order, for statements; no operation reads through it. It is the buffer's
contents where these cells are all written; a 0 in the place of an unwritten one is the model's DESIGN CHOICE (log 24). -/
def Memory.contents {n : Nat} (m : Memory n) (len : Nat) : List (BitVec n) :=
  (List.range len).map (fun i => (Memory.read m i).getD 0)

/-- `MemRead(S, i)` (R14, R66): the cell goes to `k`; an unwritten cell is a fault of the model (R40). -/
def memRead {n : Nat} (space : Space) (m : Memory n) (i : Nat) (k : BitVec n → Result) : Result :=
  match Memory.read m i with
  | some v => k v
  | none => .fault (.unwrittenCell space i)

/-- `MemWrite(S, i, v)` (R14, R67): the buffer with the cell written goes to `k`; a cell at or past the capacity does not
exist (R60), and writing it is a fault of the model (log 8). -/
def memWrite {n : Nat} (space : Space) (cap : Nat) (m : Memory n) (i : Nat) (v : BitVec n) (k : Memory n → Result) :
    Result :=
  if i < cap then k (Memory.write m i v) else .fault (.noSuchCell space i)

/-! ## Control transfer and errors -/

/-- `goto P`: `PHASE <- P; IDX <- 0` (R124). -/
def State.goto (p : PhaseCode) (s : State) : State := { s with phase := p, idx := 0 }

/-- The code of an error in register ERR (R22, R221). -/
def ErrKind.code : ErrKind → ErrCode
  | .emptySource => 1
  | .allocation => 2
  | .emptyInput => 3
  | .io => 4

/-- `raise E(stage)`, the error entry, the same for all four errors (R230): ERR, ERRSTAGE and PHASE and nothing else.
There is no return from it but RST (R232). -/
def State.raise (e : ErrKind) (stage : PhaseCode) (s : State) : State :=
  { s with err := e.code, errStage := stage, phase := phError }

/-! ## The host port's answers -/

/-- The host gets the answer accepted (R201). -/
def State.accept (s : State) : State := { s with reply := some .accepted }

/-- `refuse`: the transaction is not accepted and no state of the block changes; the host gets the answer refused (R203). -/
def State.refuse (s : State) : State := { s with reply := some .refused }

/-- A status read is answered with the register's value (R207). -/
def State.answerValue (n : Nat) (s : State) : State := { s with reply := some (.value n) }

/-! ## The environment ports -/

/-- `Draw(lo, hi)` (R14, R209), request and answer in one exchange (R8): the source is asked for a value from `lo` to `hi`
and its next answer, whatever it is (R153), goes to `k`; the state records the request with its bounds (R107) and the value.
While the source has not answered, the block waits with its state unchanged (R126, R264, log 4). -/
def draw (lo hi : Nat) (s : State) (k : Byte → State → Result) : Result :=
  match s.draws with
  | [] => .next s
  | c :: rest => k c { s with draws := rest, drawn := s.drawn ++ [c], asked := s.asked ++ [⟨lo, hi⟩] }

/-- The state after the sink accepted byte `b` (R210): OUT has grown by `b`, OUTCNT and IDX by 1 (R189, R192). -/
def State.accepted (b : Byte) (s : State) : State :=
  { s with out := s.out ++ [b], outcnt := s.outcnt + 1, idx := s.idx + 1 }

/-- `Emit(b)` as SER.HDR and SER.PIX use it (R189, R192, R210): ACCEPT lengthens OUT; FAIL raises IoError with the
stage's code and leaves OUT as it was. While the sink has not answered, the block waits with its state unchanged
(R126, R264, log 4). -/
def emit (b : Byte) (stage : PhaseCode) (s : State) : Result :=
  match s.sink with
  | [] => .next s
  | .accept :: rest => .next (State.accepted b { s with sink := rest })
  | .fail :: rest => .next (State.raise .io stage { s with sink := rest })

/-! ## Reset -/

/-- The reset transaction (R250): every register to its reset value, every cell unwritten, OUT and the run's history of
draws and of requests for them empty. The capacities, the turns to come and what the source and the sink will answer are not the block's to
change (R256). -/
def State.resetBlock (s : State) : State :=
  { State.resetWith s.cfg with host := s.host, reply := s.reply, draws := s.draws, sink := s.sink }

end Sys2Proof.Machine
end

