-- ==== Sys2Proof/Machine/Operands.lean ====
section
/-! DEFINITION. The pure functions of the four components (`00_scope.md` R15) and the two field extractions made inside
micro-operations (`30_encoding.md` R107). -/

namespace Sys2Proof.Machine

/-! ## BitPacker -/

/-- Bit `k` of a byte, bit 7 the most significant (R12). -/
def bitOf (b : Byte) (k : Nat) : Bit := BitVec.ofNat 1 (b.toNat / 2 ^ k)

/-- The eight bits of a byte, most significant first (R62). -/
def byteBits (b : Byte) : List Bit := [7, 6, 5, 4, 3, 2, 1, 0].map (bitOf b)

/-- `pack(p)` (R140). -/
def pack (p : List Byte) : List Bit := p.flatMap byteBits

/-- The payload byte that eight bits stand for, most significant first (R141); R141 gives no meaning to another number of
bits (log 24). -/
def byteOfBits (l : List Bit) : Byte := BitVec.ofNat 8 (l.foldl (fun acc b => 2 * acc + b.toNat) 0)

/-! ## ParityEncoder -/

/-- `adjust(bit, c)` on naturals, exact (R150, for a bit of 0 or 1; log 24). -/
def adjust (bit c : Nat) : Nat := if c % 2 = bit then c else c + 1

/-- The intensity a bit and a draw give, in the 9 bits of an INT cell; 256 is the largest, so the narrowing is exact
(R153, R161). -/
def symbol (b : Bit) (c : Byte) : Intensity := BitVec.ofNat 9 (adjust b.toNat c.toNat)

/-- `encode(bits, draws)`. R152 gives it for sequences of the same length only; that it is cut to the shorter of the two
otherwise is the model's DESIGN CHOICE (log 24). -/
def encodeBits (bits : List Bit) (draws : List Byte) : List Intensity := List.zipWith symbol bits draws

/-! ## RasterLayout -/

/-- The search of R166 from `w` upward, `fuel` steps at most. -/
def csqrtFrom : Nat → Nat → Nat → Nat
  | 0, w, _ => w
  | fuel + 1, w, n => if w * w < n then csqrtFrom fuel (w + 1) n else w

/-- `csqrt(n)`: the least `w` with `w * w >= n` (R165), by the method of R166. -/
def csqrt (n : Nat) : Nat := csqrtFrom n 0 n

/-- `ceil(n / w)` for `w >= 1` (R167); a quotient by 0 is 0 here (log 14). -/
def ceilDiv (n w : Nat) : Nat := (n + w - 1) / w

/-- `dims(n)` for `n >= 1` (R168); `dims 0` is `(0, 0)` here (log 14). -/
def dims (n : Nat) : Nat × Nat := (csqrt n, ceilDiv n (csqrt n))

/-- `cells(n)` (R170). -/
def cells (n : Nat) : Nat := (dims n).1 * (dims n).2

/-- The capacities that R9 gives as defaults for a payload capacity of `pred + 1` bytes. -/
def defaultParams (pred : Nat) : Config.Params where
  payloadCapPred := pred
  bitsCap := 8 * (pred + 1)
  intCap := 8 * (pred + 1)
  gridCap := cells (8 * (pred + 1))

/-- `clamp(v)` on integers (R171). -/
def clamp (v : Int) : Int := if v < 0 then 0 else if v > Config.maxVal then Config.maxVal else v

/-- The GRID cell an integer gives: clamped, and only then narrowed to 8 bits (R70). -/
def cellOfInt (v : Int) : Byte := BitVec.ofInt 8 (clamp v)

/-- The GRID cell an INT cell gives; INT cells are unsigned (R178, R172). -/
def cellOf (v : Intensity) : Byte := cellOfInt v.toNat

/-- A raster: its dimensions and its cells in row-major order (R18, R64). -/
structure Raster where
  w : Nat
  h : Nat
  cells : List Byte
deriving DecidableEq, Repr

/-- `layout(ints)` (R173); the empty sequence is the error EmptyInputError (R174). -/
def layout (ints : List Int) : Except ErrKind Raster :=
  if ints = [] then .error .emptyInput
  else .ok
    { w := (dims ints.length).1
      h := (dims ints.length).2
      cells := ints.map cellOfInt ++ List.replicate (cells ints.length - ints.length) Config.sentinel }

/-- The cells that stage RasterLayout gives for the intensities of INT (R180): clamped intensities, then padding. -/
def layoutCells (ints : List Intensity) : List Byte :=
  ints.map cellOf ++ List.replicate (cells ints.length - ints.length) Config.sentinel

/-! ## RasterSerializer -/

/-- The ASCII code of a decimal digit (R95). -/
def digitByte (d : Nat) : Byte := BitVec.ofNat 8 (0x30 + d)

/-- The digits of `n`, most significant first, `fuel` divisions at most (R96). -/
def decFrom : Nat → Nat → List Byte
  | 0, n => [digitByte n]
  | fuel + 1, n => if n < 10 then [digitByte n] else decFrom fuel (n / 10) ++ [digitByte (n % 10)]

/-- `dec(n)` for `n >= 1` (R96). It is never applied to 0 in a run; here `dec 0` is one digit (log 14). -/
def dec (n : Nat) : List Byte := decFrom n n

/-- The number of digits counted as R96 counts them, `fuel` divisions at most. -/
def ndFrom : Nat → Nat → Nat
  | 0, _ => 1
  | fuel + 1, n => if n < 10 then 1 else 1 + ndFrom fuel (n / 10)

/-- `nd(n)` for `n >= 1`, the number of decimal digits of `n` (R96); `nd 0` is 1 here (log 14). -/
def nd (n : Nat) : Nat := ndFrom n n

/-- `header(W, H)` (R97): `P5`, the dimensions, `255`, each line ended by the newline byte. -/
def header (w h : Nat) : List Byte :=
  [0x50, 0x35, Config.newline] ++ dec w ++ [0x20] ++ dec h ++ [Config.newline] ++ [0x32, 0x35, 0x35, Config.newline]

/-- `HLEN(W, H)` (R98). -/
def hlen (w h : Nat) : Nat := 9 + nd w + nd h

/-- `serialize(W, H, cells)`. R185 gives it for `W >= 1`, `H >= 1` and `W * H` cells only; that it puts the header before any
cells otherwise is the model's DESIGN CHOICE (log 24, and log 14 for a dimension of 0). -/
def serialize (r : Raster) : List Byte := header r.w r.h ++ r.cells

/-! ## The whole pipeline -/

/-- `frame(p, draws)`; the empty payload has no frame. R213 gives it for `8 * |p|` draws only; with another number of draws
`encodeBits` cuts to the shorter list, so fewer draws give a frame of fewer intensities and none the error EmptyInputError:
the model's DESIGN CHOICE (log 24). -/
def frame (p : List Byte) (draws : List Byte) : Except ErrKind (List Byte) :=
  if p = [] then .error .emptySource
  else (layout ((encodeBits (pack p) draws).map (fun v => (v.toNat : Int)))).map serialize

end Sys2Proof.Machine
end

