-- ==== Sys2Proof/Machine/BitPacker.lean ====
section
/-! DEFINITION. Stage PACK: PACK.BIT and PACK.END (`41_bitpacker.md`). -/

namespace Sys2Proof.Machine

/-- PACK.BIT (R143): bit `7 - (IDX mod 8)` of `PAY[IDX div 8]` to `BITS[IDX]`. -/
def execPackBit (s : State) : Result :=
  memRead .pay s.pay (s.idx / 8) fun byt =>
    memWrite .bits s.cfg.bitsCap s.bits s.idx (bitOf byt (7 - s.idx % 8)) fun m =>
      .next { s with bits := m, nbits := s.idx + 1, idx := s.idx + 1 }

/-- PACK.END (R144): INT must hold NBITS cells; else AllocationError of stage ENCODE. -/
def execPackEnd (s : State) : Result :=
  if s.nbits > s.cfg.intCap then .next (s.raise .allocation phEncode)
  else .next (State.goto phEncode { s with nint := 0 })

end Sys2Proof.Machine
end

