-- ==== Sys2Proof/Machine/Flags.lean ====
section
/-! DEFINITION. What the host can see without a command: the three status outputs (`10_state.md` R31) and the ten
registers by number (`30_encoding.md` R106). The block has no condition codes. -/

namespace Sys2Proof.Machine

/-- `DONE_O = (PHASE = DONE)` (R31). -/
def State.doneO (s : State) : Bool := decide (s.phase = phDone)

/-- `ERROR_O = (PHASE = ERROR)` (R31). -/
def State.errorO (s : State) : Bool := decide (s.phase = phError)

/-- `BUSY_O = (1 <= PHASE <= 6)` (R31). -/
def State.busyO (s : State) : Bool := decide (1 ≤ s.phase.toNat ∧ s.phase.toNat ≤ 6)

/-- The value of a status register by its number, whole, as a natural; 10 to 15 name none (R106, R207). -/
def statusValue (r : RegNum) (s : State) : Option Nat :=
  match r.toNat with
  | 0 => some s.phase.toNat
  | 1 => some s.err.toNat
  | 2 => some s.errStage.toNat
  | 3 => some s.plen
  | 4 => some s.nbits
  | 5 => some s.nint
  | 6 => some s.w
  | 7 => some s.h
  | 8 => some s.idx
  | 9 => some s.outcnt
  | _ => none

end Sys2Proof.Machine
end

