-- ==== Sys2Proof/Machine/HostInterface.lean ====
section
/-! DEFINITION. The host's transactions: NOP, LOAD, START, RD and RST (`45_host_interface.md`,
`70_reset_and_hazards.md`). Each is answered in its step (R201). -/

namespace Sys2Proof.Machine

/-- NOP (R204): accepted in every phase, nothing else. -/
def execNop (s : State) : Result := .next s.accept

/-- LOAD d (R205): refused outside IDLE; AllocationError where PAY is full; else the byte is appended. -/
def execLoad (d : Byte) (s : State) : Result :=
  if s.phase ≠ phIdle then .next s.refuse
  else if s.plen = s.cfg.payloadCap then .next (s.raise .allocation phIdle).accept
  else memWrite .pay s.cfg.payloadCap s.pay s.plen d fun m =>
    .next (State.accept { s with pay := m, plen := s.plen + 1 })

/-- START (R206): refused outside IDLE; EmptySourceError for no payload; AllocationError where BITS is too small; else
the run starts. -/
def execStart (s : State) : Result :=
  if s.phase ≠ phIdle then .next s.refuse
  else if s.plen = 0 then .next (s.raise .emptySource phIdle).accept
  else if 8 * s.plen > s.cfg.bitsCap then .next (s.raise .allocation phPack).accept
  else .next (State.accept (State.goto phPack { s with nbits := 0 }))

/-- RD r (R207): the register's value, in every phase; a reserved number is refused. -/
def execRd (r : RegNum) (s : State) : Result :=
  match statusValue r s with
  | some n => .next (s.answerValue n)
  | none => .next s.refuse

/-- RST (R250): never refused. -/
def execRst (s : State) : Result := .next s.resetBlock.accept

end Sys2Proof.Machine
end

