-- ==== Sys2Proof/Machine/ParityEncoder.lean ====
section
/-! DEFINITION. Stage ENCODE: ENC.SYM and ENC.END (`42_parity_encoder.md`). -/

namespace Sys2Proof.Machine

/-- ENC.SYM (R156): one draw, asked for with the constant bounds 1 and 254 (R107, R209), and
`INT[IDX]` becomes the draw adjusted to the parity of `BITS[IDX]`. -/
def execEncSym (s : State) : Result :=
  draw Config.drawLo Config.drawHi s fun c t =>
    memRead .bits t.bits t.idx fun b =>
      memWrite .int t.cfg.intCap t.int t.idx (symbol b c) fun m =>
        .next { t with int := m, nint := t.idx + 1, idx := t.idx + 1 }

/-- ENC.END (R157). -/
def execEncEnd (s : State) : Result := .next (s.goto phDim)

end Sys2Proof.Machine
end

