-- ==== Sys2Proof/Machine/RasterLayout.lean ====
section
/-! DEFINITION. Stage RasterLayout: LAY.DIM, LAY.CELL and LAY.END (`43_raster_layout.md`). -/

namespace Sys2Proof.Machine

/-- W and H written from NINT (R176, R168). -/
def withDims (s : State) : State := { s with w := (dims s.nint).1, h := (dims s.nint).2 }

/-- LAY.DIM (R176): EmptyInputError for no intensity; else W and H are written in either case, and GRID must hold
`W * H` cells or AllocationError is raised. -/
def execLayDim (s : State) : Result :=
  if s.nint = 0 then .next (s.raise .emptyInput phDim)
  else if cells s.nint > s.cfg.gridCap then .next ((withDims s).raise .allocation phDim)
  else .next ((withDims s).goto phFill)

/-- The byte LAY.CELL stores (R178): the clamped intensity below NINT, the padding sentinel from there on. -/
def cellValue (s : State) (k : Byte → Result) : Result :=
  if s.idx < s.nint then memRead .int s.int s.idx fun v => k (cellOf v)
  else k Config.sentinel

/-- LAY.CELL (R178). -/
def execLayCell (s : State) : Result :=
  cellValue s fun g =>
    memWrite .grid s.cfg.gridCap s.grid s.idx g fun m =>
      .next { s with grid := m, idx := s.idx + 1 }

/-- LAY.END (R179). -/
def execLayEnd (s : State) : Result := .next (s.goto phHeader)

end Sys2Proof.Machine
end

