-- ==== Sys2Proof/Machine/RasterSerializer.lean ====
section
/-! DEFINITION. Stage RasterSerializer: SER.HDR, SER.HEND, SER.PIX and SER.END (`44_raster_serializer.md`). -/

namespace Sys2Proof.Machine

/-- SER.HDR (R189): byte IDX of `header(W, H)` is offered to the sink. -/
def execSerHdr (s : State) : Result :=
  match (header s.w s.h)[s.idx]? with
  | some b => emit b phHeader s
  | none => .fault (.noHeaderByte s.idx)

/-- SER.HEND (R190). -/
def execSerHend (s : State) : Result := .next (s.goto phBody)

/-- SER.PIX (R192): `GRID[IDX]` is offered to the sink, unchanged. -/
def execSerPix (s : State) : Result :=
  memRead .grid s.grid s.idx fun b => emit b phBody s

/-- SER.END (R194): IDX is left at `W * H`. -/
def execSerEnd (s : State) : Result := .next { s with phase := phDone }

end Sys2Proof.Machine
end

