-- ==== Sys2Proof/Machine/Dispatch.lean ====
section
/-! DEFINITION. The meaning of every operation, one arm each. -/

namespace Sys2Proof.Machine

def exec (i : Instr) (s : State) : Host.Outcome State Fault Refusal :=
  match i with
  | .packBit => Sys2Proof.Machine.execPackBit s
  | .packEnd => Sys2Proof.Machine.execPackEnd s
  | .encSym => Sys2Proof.Machine.execEncSym s
  | .encEnd => Sys2Proof.Machine.execEncEnd s
  | .layDim => Sys2Proof.Machine.execLayDim s
  | .layCell => Sys2Proof.Machine.execLayCell s
  | .layEnd => Sys2Proof.Machine.execLayEnd s
  | .serHdr => Sys2Proof.Machine.execSerHdr s
  | .serHend => Sys2Proof.Machine.execSerHend s
  | .serPix => Sys2Proof.Machine.execSerPix s
  | .serEnd => Sys2Proof.Machine.execSerEnd s
  | .nop => Sys2Proof.Machine.execNop s
  | .load d => Sys2Proof.Machine.execLoad d s
  | .start => Sys2Proof.Machine.execStart s
  | .rd r => Sys2Proof.Machine.execRd r s
  | .rst => Sys2Proof.Machine.execRst s

end Sys2Proof.Machine
end

