-- ==== Sys2Proof/Machine/Sequencer.lean ====
section
/-! DEFINITION. Which operation a step performs (`40_sequencer.md` R121, `30_encoding.md` R101, R102), and the placing of
a selector so that the next step performs it. -/

namespace Sys2Proof.Machine

/-- `LIMIT(PHASE)` (R102); R102 gives none to the other phases, where ATEND is ignored. -/
def limit (s : State) : Nat :=
  if s.phase = phPack then 8 * s.plen
  else if s.phase = phEncode then s.nbits
  else if s.phase = phFill then s.w * s.h
  else if s.phase = phHeader then hlen s.w s.h
  else if s.phase = phBody then s.w * s.h
  else 0

/-- `ATEND`: `IDX >= LIMIT(PHASE)` (R102). -/
def atEnd (s : State) : Bool := decide (limit s ≤ s.idx)

/-- The sequencer's selector `{PHASE, ATEND}`, a function of the state (R102). -/
def seqSelector (s : State) : Selector := .seq (seqWord s.phase (atEnd s))

/-- What the next step performs: the host's transaction if it issues one, else the sequencer's micro-operation
(R16, R78). -/
def nextSelector (s : State) : Selector :=
  match s.host with
  | .cmd w :: _ => .cmd w
  | .rd r :: _ => .rd r
  | .rst :: _ => .rst 1
  | .sequencer :: _ => seqSelector s
  | [] => seqSelector s

/-- The state in which the selected operation runs: this turn is taken. -/
def takeTurn (s : State) : State := { s with host := s.host.tail }

/-- A step whose selector picks no operation. In IDLE, DONE and ERROR the sequencer's turn changes nothing (R121, R243,
log 5); the reserved command word is refused (R203, R108); a reserved PHASE has no step (R108). -/
def noOperation (e : DecodeError) (s : State) : Result :=
  match e with
  | .noMicroOperation => .next s
  | .reservedPhase => .fault .reservedPhase
  | .reservedCommand => .next s.refuse
  | .resetNotAsserted => .next s

/-! ## Placing a selector (log 13) -/

/-- The state in which PHASE is `p` and ATEND is 1: IDX stands at the phase's limit. -/
def placeAtEnd (p : PhaseCode) (s : State) : State :=
  { s with phase := p, idx := limit { s with phase := p } }

/-- A capacity with room for one cell: unchanged unless it is 0. -/
def roomForOne (cap : Nat) : Nat := cap - 1 + 1

/-- The state in which PHASE is `p` and the phase's first element is next: IDX is 0, and the lengths, the cell, the room
and the port answer that the first element takes are there. -/
def placeFirst (p : PhaseCode) (s : State) : State :=
  let t := { s with phase := p, idx := 0 }
  if p = phPack then { t with plen := 1, pay := [(0, 0)], cfg := { s.cfg with bitsCap := roomForOne s.cfg.bitsCap } }
  else if p = phEncode then
    { t with nbits := 1, bits := [(0, 0)], cfg := { s.cfg with intCap := roomForOne s.cfg.intCap }, draws := if s.draws = [] then [1] else s.draws }
  else if p = phFill then { t with w := 1, h := 1, cfg := { s.cfg with gridCap := roomForOne s.cfg.gridCap } }
  else if p = phHeader then { t with w := 1, h := 1, sink := if s.sink = [] then [.accept] else s.sink }
  else if p = phBody then { t with w := 1, h := 1, grid := [(0, 0)], sink := if s.sink = [] then [.accept] else s.sink }
  else t

/-- The state whose next step performs the selected operation. -/
def placeSelector (sel : Selector) (s : State) : State :=
  match sel with
  | .cmd w => { s with host := .cmd w :: s.host }
  | .rd r => { s with host := .rd r :: s.host }
  | .rst _ => { s with host := .rst :: s.host }
  | .seq w =>
    let t := { s with host := .sequencer :: s.host }
    if w.getLsbD 0 then placeAtEnd (w.extractLsb' 1 4) t else placeFirst (w.extractLsb' 1 4) t

end Sys2Proof.Machine
end

