-- ==== Sys2Proof/Machine/Step.lean ====
section
/-! DEFINITION. One step of the machine: one host transaction, one micro-operation or a reset (`00_scope.md` R8), and the
placing of one operation of the opcode table where the next step performs it. -/

namespace Sys2Proof.Machine

/-- One step (R8, R16): the selected operation is decoded and runs on the state whose turn is taken. -/
def step (s : State) : Host.Outcome State Fault Refusal :=
  match decode (nextSelector s) with
  | .ok i => exec i (takeTurn s)
  | .error e => noOperation e (takeTurn s)

/-- The state whose next step performs the operation of the opcode table whose bits are `w` (log 13). -/
def State.withFetchWord (s : State) (nbits w : Nat) : State :=
  match tableSelector nbits w with
  | some sel => placeSelector sel s
  | none => s

end Sys2Proof.Machine
end

