-- ==== Sys2Proof/Safety.lean ====
section
/-! DEFINITION. What statements about the machine speak of: the entities the buffers hold, how a run ends, the premise on
the randomness source, and the invariants of `40_sequencer.md` R130. -/

namespace Sys2Proof.Machine

/-! ## Many steps -/

/-- `k` steps one after another, stopping at the first fault or refusal. -/
def stepMany : Nat → State → Result
  | 0, s => .next s
  | k + 1, s =>
    match step s with
    | .next t => stepMany k t
    | .fault r => .fault r
    | .refused r => .refused r

/-! ## The entities of the data model (R18) -/

/-- The Payload: the first PLEN cells of PAY. -/
def State.payload (s : State) : List Byte := Memory.contents s.pay s.plen

/-- The BitSequence: the first NBITS cells of BITS. -/
def State.bitSeq (s : State) : List Bit := Memory.contents s.bits s.nbits

/-- The IntensitySequence: the first NINT cells of INT. -/
def State.intSeq (s : State) : List Intensity := Memory.contents s.int s.nint

/-- The Raster's cells: the first `W * H` cells of GRID. -/
def State.rasterCells (s : State) : List Byte := Memory.contents s.grid (s.w * s.h)

/-- The frame of the Raster that the registers and GRID hold. -/
def State.rasterFrame (s : State) : List Byte := serialize ⟨s.w, s.h, s.rasterCells⟩

/-! ## The end of a run -/

/-- A state is final exactly when PHASE is DONE (R129). -/
def State.final (s : State) : Bool := decide (s.phase = phDone)

/-- The run ended with an error (R128). -/
def State.failed (s : State) : Bool := decide (s.phase = phError)

/-- No sequencer step is enabled: IDLE, DONE or ERROR (R19). -/
def State.quiescent (s : State) : Bool := decide (s.phase = phIdle ∨ s.phase = phDone ∨ s.phase = phError)

/-- The premise RngInRange (R151): every draw still to come is in 1 to 254. -/
def RngInRange (draws : List Byte) : Prop := ∀ c ∈ draws, Config.drawLo ≤ c.toNat ∧ c.toNat ≤ Config.drawHi

/-! ## The invariants of R130 -/

/-- The phases after BitPacker: ENCODE to DONE. -/
def State.packed (s : State) : Prop := 2 ≤ s.phase.toNat ∧ s.phase.toNat ≤ 7

/-- The phases after ParityEncoder: DIM to DONE. -/
def State.encoded (s : State) : Prop := 3 ≤ s.phase.toNat ∧ s.phase.toNat ≤ 7

/-- The phases in which the dimensions are known: FILL to DONE. -/
def State.dimensioned (s : State) : Prop := 4 ≤ s.phase.toNat ∧ s.phase.toNat ≤ 7

/-- The phases after RasterLayout: HEADER to DONE. -/
def State.laidOut (s : State) : Prop := 5 ≤ s.phase.toNat ∧ s.phase.toNat ≤ 7

/-- The run ended while the frame was being sent (R221). -/
def State.sinkFailed (s : State) : Prop :=
  s.phase = phError ∧ (s.errStage = phHeader ∨ s.errStage = phBody)

/-- How many cells of GRID are written (R39). -/
def State.gridLen (s : State) : Nat :=
  if s.phase = phFill then s.idx
  else if (5 ≤ s.phase.toNat ∧ s.phase.toNat ≤ 7) ∨
      (s.phase = phError ∧ (s.errStage = phHeader ∨ s.errStage = phBody)) then s.w * s.h
  else 0

/-- The pairs of ERR and ERRSTAGE that a run can leave (R221), none recorded among them. EmptyInputError is not: no run
raises it (R225). -/
def errorPairs : List (Nat × Nat) := [(0, 0), (1, 0), (2, 0), (2, 1), (2, 2), (2, 3), (4, 5), (4, 6)]

/-- The invariants I1 to I17 of R130, and what R25, R36 to R40, R193 and R261 say of the written cells, of the bytes sent
before a failure, and of the draws. -/
structure Inv (s : State) : Prop where
  /-- I1. -/
  phaseLegal : s.phase.toNat ≤ 8
  /-- I2. -/
  errorPhase : s.phase = phError ↔ s.err ≠ 0
  /-- I2 and R221. -/
  errorPair : (s.err.toNat, s.errStage.toNat) ∈ errorPairs
  /-- I3. -/
  payFits : s.plen ≤ s.cfg.payloadCap
  /-- The four buffers are in canonical form. -/
  canonical : Memory.wf s.pay = true ∧ Memory.wf s.bits = true ∧ Memory.wf s.int = true ∧ Memory.wf s.grid = true
  /-- I3, R36: the written cells of PAY. -/
  payWritten : ∀ i, (Memory.read s.pay i).isSome = true ↔ i < s.plen
  /-- R25, R37: the written cells of BITS. -/
  bitsWritten : ∀ i, (Memory.read s.bits i).isSome = true ↔ i < s.nbits
  /-- R26, R38: the written cells of INT. -/
  intWritten : ∀ i, (Memory.read s.int i).isSome = true ↔ i < s.nint
  /-- R39: the written cells of GRID. -/
  gridWritten : ∀ i, (Memory.read s.grid i).isSome = true ↔ i < s.gridLen
  /-- I7, R261: one draw per intensity. -/
  drawnCount : s.drawn.length = s.nint
  /-- R107, R209: each of them was asked for with the constant bounds. -/
  askedBounds : s.asked = List.replicate s.nint ⟨Config.drawLo, Config.drawHi⟩
  /-- I4. -/
  idle : s.phase = phIdle →
    s.nbits = 0 ∧ s.nint = 0 ∧ s.w = 0 ∧ s.h = 0 ∧ s.idx = 0 ∧ s.outcnt = 0 ∧ s.out = []
  /-- I5. -/
  packing : s.phase = phPack →
    1 ≤ s.plen ∧ s.idx = s.nbits ∧ s.nbits ≤ 8 * s.plen ∧ 8 * s.plen ≤ s.cfg.bitsCap ∧ s.nint = 0 ∧
      s.bitSeq = (pack s.payload).take s.nbits
  /-- I6. -/
  packedBits : s.packed → 1 ≤ s.plen ∧ s.nbits = 8 * s.plen ∧ s.bitSeq = pack s.payload
  /-- I7. `drawn` has NINT elements (`drawnCount`), so the cut of `encodeBits` to the shorter list (log 24) is the bound
  `i < NINT` of I7. -/
  encoding : s.phase = phEncode →
    s.idx = s.nint ∧ s.nint ≤ s.nbits ∧ s.nbits ≤ s.cfg.intCap ∧ s.intSeq = encodeBits s.bitSeq s.drawn
  /-- I8. -/
  encodedInts : s.encoded → s.nint = s.nbits ∧ 8 ≤ s.nint ∧ s.intSeq = encodeBits s.bitSeq s.drawn
  /-- I9, and R27: no dimension before LAY.DIM. -/
  undimensioned : s.phase.toNat ≤ 3 → s.w = 0 ∧ s.h = 0
  /-- I9. -/
  dimIndex : s.phase = phDim → s.idx = 0
  /-- I10. -/
  raster : s.dimensioned →
    (s.w, s.h) = dims s.nint ∧ 1 ≤ s.w ∧ 1 ≤ s.h ∧ s.nint ≤ s.w * s.h ∧ s.w * s.h ≤ s.cfg.gridCap
  /-- I11. -/
  filling : s.phase = phFill →
    s.idx ≤ s.w * s.h ∧ Memory.contents s.grid s.idx = (layoutCells s.intSeq).take s.idx
  /-- I12. -/
  filled : s.laidOut → s.rasterCells = layoutCells s.intSeq
  /-- I13. -/
  heading : s.phase = phHeader →
    s.idx ≤ hlen s.w s.h ∧ s.outcnt = s.idx ∧ s.out = (header s.w s.h).take s.idx
  /-- I14. -/
  sending : s.phase = phBody →
    s.idx ≤ s.w * s.h ∧ s.outcnt = hlen s.w s.h + s.idx ∧
      s.out = header s.w s.h ++ Memory.contents s.grid s.idx
  /-- I15. -/
  done : s.phase = phDone →
    s.idx = s.w * s.h ∧ s.outcnt = hlen s.w s.h + s.w * s.h ∧ s.out = s.rasterFrame
  /-- I16: OUTCNT counts OUT. -/
  outCount : s.outcnt = s.out.length
  /-- I16: nothing is sent before HEADER. -/
  outEmpty : ¬ s.laidOut → ¬ s.sinkFailed → s.out = []
  /-- R193: after IoError OUT is a proper prefix of the frame, of length OUTCNT. -/
  failedPrefix : s.sinkFailed → s.outcnt < s.rasterFrame.length ∧ s.out = s.rasterFrame.take s.outcnt
  /-- I17. -/
  indexInLimit : s.phase = phPack ∨ s.phase = phEncode ∨ s.phase = phFill ∨ s.phase = phHeader ∨ s.phase = phBody →
    s.idx ≤ limit s

/-! ## The changes of PHASE (R123) -/

/-- The rows of R123 for one operation: from a state with the condition of a row to a state with what the row says. -/
def phaseRow (i : Instr) (s t : State) : Prop :=
  match i with
  | .rst =>
    t.phase = phIdle ∧ t.err = 0 ∧ t.errStage = 0 ∧ t.plen = 0 ∧ t.nbits = 0 ∧ t.nint = 0 ∧ t.w = 0 ∧ t.h = 0 ∧
      t.idx = 0 ∧ t.outcnt = 0
  | .load _ => s.phase = phIdle ∧ s.plen = s.cfg.payloadCap ∧ t.phase = phError ∧ t.err = 2 ∧ t.errStage = 0
  | .start =>
    s.phase = phIdle ∧
      ((s.plen = 0 ∧ t.phase = phError ∧ t.err = 1 ∧ t.errStage = 0) ∨
        (0 < s.plen ∧ 8 * s.plen > s.cfg.bitsCap ∧ t.phase = phError ∧ t.err = 2 ∧ t.errStage = 1) ∨
        (0 < s.plen ∧ 8 * s.plen ≤ s.cfg.bitsCap ∧ t.phase = phPack ∧ t.idx = 0 ∧ t.nbits = 0))
  | .packEnd =>
    s.phase = phPack ∧
      ((s.nbits > s.cfg.intCap ∧ t.phase = phError ∧ t.err = 2 ∧ t.errStage = 2) ∨
        (s.nbits ≤ s.cfg.intCap ∧ t.phase = phEncode ∧ t.idx = 0 ∧ t.nint = 0))
  | .encEnd => s.phase = phEncode ∧ t.phase = phDim ∧ t.idx = 0
  | .layDim =>
    s.phase = phDim ∧
      ((s.nint = 0 ∧ t.phase = phError ∧ t.err = 3 ∧ t.errStage = 3) ∨
        (s.nint > 0 ∧ (t.w, t.h) = dims s.nint ∧ t.w * t.h > s.cfg.gridCap ∧ t.phase = phError ∧ t.err = 2 ∧
          t.errStage = 3) ∨
        (s.nint > 0 ∧ (t.w, t.h) = dims s.nint ∧ t.w * t.h ≤ s.cfg.gridCap ∧ t.phase = phFill ∧ t.idx = 0))
  | .layEnd => s.phase = phFill ∧ t.phase = phHeader ∧ t.idx = 0
  | .serHdr => s.phase = phHeader ∧ s.sink.head? = some .fail ∧ t.phase = phError ∧ t.err = 4 ∧ t.errStage = 5
  | .serHend => s.phase = phHeader ∧ t.phase = phBody ∧ t.idx = 0
  | .serPix => s.phase = phBody ∧ s.sink.head? = some .fail ∧ t.phase = phError ∧ t.err = 4 ∧ t.errStage = 6
  | .serEnd => s.phase = phBody ∧ t.phase = phDone ∧ t.idx = s.idx
  | .packBit | .encSym | .layCell | .nop | .rd _ => False

/-! ## A whole run (R214, R253) -/

/-- The host's turns for a run: RST, one LOAD for each payload byte in order, START. -/
def runScript (p : List Byte) : List HostTurn :=
  .rst :: (p.map (fun d => HostTurn.cmd (cmdWord 1 d)) ++ [.cmd (cmdWord 2 0)])

/-- How many steps a run of a payload of `n` bytes takes that meets no error, the host's turns included (R132, R253). -/
def runSteps (n : Nat) : Nat :=
  (n + 2) + (2 * (8 * n) + 2 * cells (8 * n) + hlen (dims (8 * n)).1 (dims (8 * n)).2 + 6)

/-- The payload of `n` bytes read back from the parities of body bytes (R141, R214); meaningful for a body of at least `8 * n`
bytes (log 24). -/
def readBack (n : Nat) (body : List Byte) : List Byte :=
  (List.range n).map (fun j => byteOfBits (((body.drop (8 * j)).take 8).map (fun v => bitOf v 0)))

end Sys2Proof.Machine
end

