-- ==== Sys2Proof/Certificates/Slice0/Obligations.lean ====
section
/-! DEFINITION. The statements for the provers. Each docstring names the rule of spec/ a statement formalises. -/

open Sys2Proof Sys2Proof.Machine

/-! ## Encoding -/

/-- `30_encoding.md` section 3: the encoder and the decoder agree on every operation and every operand, and a selector
that decodes to an operation is that operation's, but for the bits R102 and R105 call ignored. -/
def Obligations.DecodeEncodeAgree : Prop :=
  (∀ i : Instr, decode (encode i) = .ok i) ∧
  (∀ (x : Selector) (i : Instr), decode x = .ok i → x.canonical = encode i) ∧
  (∀ x : Selector, decode x.canonical = decode x)

/-- R103, row by row over all 32 selectors. -/
def Obligations.SequencerSelectorTable : Prop :=
  ∀ w : SeqWord,
    (decode (.seq w) = .ok .packBit ↔ w = 0b00010) ∧ (decode (.seq w) = .ok .packEnd ↔ w = 0b00011) ∧
    (decode (.seq w) = .ok .encSym ↔ w = 0b00100) ∧ (decode (.seq w) = .ok .encEnd ↔ w = 0b00101) ∧
    (decode (.seq w) = .ok .layDim ↔ (w = 0b00110 ∨ w = 0b00111)) ∧
    (decode (.seq w) = .ok .layCell ↔ w = 0b01000) ∧ (decode (.seq w) = .ok .layEnd ↔ w = 0b01001) ∧
    (decode (.seq w) = .ok .serHdr ↔ w = 0b01010) ∧ (decode (.seq w) = .ok .serHend ↔ w = 0b01011) ∧
    (decode (.seq w) = .ok .serPix ↔ w = 0b01100) ∧ (decode (.seq w) = .ok .serEnd ↔ w = 0b01101) ∧
    (decode (.seq w) = .error .noMicroOperation ↔
      (w = 0b00000 ∨ w = 0b00001 ∨ w = 0b01110 ∨ w = 0b01111 ∨ w = 0b10000 ∨ w = 0b10001)) ∧
    (decode (.seq w) = .error .reservedPhase ↔ 0b10010 ≤ w.toNat)

/-- R104 and R105: `op` in bits 9 to 8, `d` in bits 7 to 0; `d` is LOAD's byte and ignored elsewhere. -/
def Obligations.CommandWordTable : Prop :=
  ∀ (op : BitVec 2) (d : Byte) (w : CmdWord), w.toNat = op.toNat * 256 + d.toNat →
    decode (.cmd w) =
      (if op = 0b00 then .ok .nop else if op = 0b01 then .ok (.load d) else if op = 0b10 then .ok .start
        else .error .reservedCommand)

/-- A few words of `95_test_vectors.md`, each decoded. -/
def Obligations.WrittenWordsDecode : Prop :=
  decode (.cmd 0b0101000001) = .ok (.load 0x41) ∧ decode (.cmd 0b1000000000) = .ok .start ∧
  decode (.cmd 0b1011111111) = .ok .start ∧ decode (.cmd 0b0000000000) = .ok .nop ∧
  decode (.seq 0b00010) = .ok .packBit ∧ decode (.seq 0b00101) = .ok .encEnd ∧
  decode (.seq 0b01100) = .ok .serPix ∧ decode (.rd 0b0110) = .ok (.rd 6) ∧ decode (.rst 0b1) = .ok .rst

/-! ## The step -/

/-- R8 and R16: a step whose selector decodes is that operation on the state whose turn is taken, and taking the turn
changes nothing but the list of turns to come. -/
def Obligations.StepRunsDecodedOperation : Prop :=
  ∀ (s : State) (i : Instr), decode (nextSelector s) = .ok i →
    step s = exec i (takeTurn s) ∧ takeTurn s = { s with host := s.host.tail }

/-- R121: on the sequencer's turn the operation is the one the dispatch names, and in IDLE, DONE, ERROR and 9 to 15
there is none. -/
def Obligations.DispatchByPhaseAndIndex : Prop :=
  ∀ s : State, (s.host = [] ∨ s.host.head? = some .sequencer) →
    (s.phase = 1 → decode (nextSelector s) = .ok (if s.idx < 8 * s.plen then .packBit else .packEnd)) ∧
    (s.phase = 2 → decode (nextSelector s) = .ok (if s.idx < s.nbits then .encSym else .encEnd)) ∧
    (s.phase = 3 → decode (nextSelector s) = .ok .layDim) ∧
    (s.phase = 4 → decode (nextSelector s) = .ok (if s.idx < s.w * s.h then .layCell else .layEnd)) ∧
    (s.phase = 5 → decode (nextSelector s) = .ok (if s.idx < hlen s.w s.h then .serHdr else .serHend)) ∧
    (s.phase = 6 → decode (nextSelector s) = .ok (if s.idx < s.w * s.h then .serPix else .serEnd)) ∧
    ((s.phase = 0 ∨ 7 ≤ s.phase.toNat) → ∀ i, decode (nextSelector s) ≠ .ok i)

/-- The model's reading (log 5, log 6; R121, R243, R108): a sequencer's turn in IDLE, DONE or ERROR changes nothing but
the list of turns; with PHASE 9 to 15 the model stops. -/
def Obligations.QuiescentTurnChangesNothing : Prop :=
  ∀ s : State, (s.host = [] ∨ s.host.head? = some .sequencer) →
    ((s.phase = 0 ∨ s.phase = 7 ∨ s.phase = 8) → step s = .next { s with host := s.host.tail }) ∧
    (9 ≤ s.phase.toNat → step s = .fault .reservedPhase)

/-- R203: LOAD and START outside IDLE, and the reserved command word in every phase, change nothing and are answered
refused; in IDLE LOAD and START are answered accepted. -/
def Obligations.RefusalChangesNothing : Prop :=
  (∀ (s : State) (d : Byte), s.phase ≠ 0 →
    exec (.load d) s = .next { s with reply := some .refused } ∧
    exec .start s = .next { s with reply := some .refused }) ∧
  (∀ (s : State) (w : CmdWord) (rest : List HostTurn), s.host = .cmd w :: rest → 0x300 ≤ w.toNat →
    step s = .next { s with host := rest, reply := some .refused }) ∧
  (∀ (s t : State) (d : Byte), s.phase = 0 → (exec (.load d) s = .next t ∨ exec .start s = .next t) →
    t.reply = some .accepted)

/-! ## BitPacker -/

/-- R143: PACK.BIT completes, what it writes, and what it leaves alone. -/
def Obligations.PackBitWritesOneBit : Prop :=
  decode (.seq 0b00010) = .ok .packBit ∧
  ∀ (s : State) (byt : Byte), Memory.read s.pay (s.idx / 8) = some byt → s.idx < s.cfg.bitsCap →
    ∃ (t : State) (b : Bit), exec .packBit s = .next t ∧ b.toNat = byt.toNat / 2 ^ (7 - s.idx % 8) % 2 ∧
      Memory.read t.bits s.idx = some b ∧ (∀ j, j ≠ s.idx → Memory.read t.bits j = Memory.read s.bits j) ∧
      t = { s with bits := t.bits, nbits := s.idx + 1, idx := s.idx + 1 }

/-- R144: PACK.END goes to ENCODE, or raises AllocationError with ERRSTAGE 2 and nothing else. -/
def Obligations.PackEndChecksIntCapacity : Prop :=
  decode (.seq 0b00011) = .ok .packEnd ∧
  ∀ s : State,
    (s.nbits ≤ s.cfg.intCap → exec .packEnd s = .next { s with nint := 0, phase := 2, idx := 0 }) ∧
    (s.nbits > s.cfg.intCap → exec .packEnd s = .next { s with err := 2, errStage := 2, phase := 8 })

/-- R140 and R141: each bit of `pack`, its length, its value on the empty sequence, that it is injective, and the recovery
of a byte from its eight bits. -/
def Obligations.PackIsRecoverable : Prop :=
  (∀ (p : List Byte) (i : Nat) (byt : Byte), p[i / 8]? = some byt →
    ∃ b : Bit, (pack p)[i]? = some b ∧ b.toNat = byt.toNat / 2 ^ (7 - i % 8) % 2) ∧
  (∀ p : List Byte, (pack p).length = 8 * p.length) ∧ pack [] = [] ∧ Function.Injective pack ∧
  (∀ (p : List Byte) (j : Nat) (b : Byte), p[j]? = some b →
    b.toNat = ((List.range 8).map (fun k => (((pack p)[8 * j + k]?).getD 0).toNat * 2 ^ (7 - k))).sum)

/-- R145: stage PACK as a whole. It writes each of the cells `BITS[0..8 * PLEN)`, so that reading them as a list meets no
unwritten cell (R40), and leaves the cells from there on as they were. -/
def Obligations.StagePackComputesPack : Prop :=
  ∀ s : State, s.host = [] → s.phase = 1 → s.idx = 0 → 1 ≤ s.plen → 8 * s.plen ≤ s.cfg.bitsCap →
    (∀ j, j < s.plen → (Memory.read s.pay j).isSome = true) →
    ∃ t, stepMany (8 * s.plen + 1) s = .next t ∧
      Memory.contents t.bits (8 * s.plen) = pack (Memory.contents s.pay s.plen) ∧
      (∀ j, j < 8 * s.plen → (Memory.read t.bits j).isSome = true) ∧
      (∀ j, 8 * s.plen ≤ j → Memory.read t.bits j = Memory.read s.bits j) ∧
      (8 * s.plen ≤ s.cfg.intCap →
        t = { s with bits := t.bits, nbits := 8 * s.plen, nint := 0, phase := 2, idx := 0 }) ∧
      (s.cfg.intCap < 8 * s.plen →
        t = { s with bits := t.bits, nbits := 8 * s.plen, idx := 8 * s.plen, phase := 8, err := 2, errStage := 2 })

/-! ## ParityEncoder -/

/-- R156: ENC.SYM completes when the source has answered, for every answer; what it writes and what it leaves alone. The
draw is asked for with the bounds 1 and 254 (R107), and the record of requests (log 2) shows them. -/
def Obligations.EncSymTakesOneDraw : Prop :=
  decode (.seq 0b00100) = .ok .encSym ∧
  ∀ (s : State) (c : Byte) (rest : List Byte) (b : Bit), s.draws = c :: rest → Memory.read s.bits s.idx = some b →
    s.idx < s.cfg.intCap →
    ∃ (t : State) (v : Intensity), exec .encSym s = .next t ∧
      v.toNat = (if c.toNat % 2 = b.toNat then c.toNat else c.toNat + 1) ∧
      Memory.read t.int s.idx = some v ∧ (∀ j, j ≠ s.idx → Memory.read t.int j = Memory.read s.int j) ∧
      t = { s with int := t.int, nint := s.idx + 1, idx := s.idx + 1, draws := rest, drawn := s.drawn ++ [c],
                   asked := s.asked ++ [⟨1, 254⟩] }

/-- R154: under the draw contract the intensity has the bit's parity and is in 1 to 255, 2 to 254 for bit 0; 255 is
reached in one way only. -/
def Obligations.SymbolKeepsParityAndRange : Prop :=
  ∀ (b : Bit) (c : Byte), 1 ≤ c.toNat → c.toNat ≤ 254 →
    (symbol b c).toNat % 2 = b.toNat ∧ 1 ≤ (symbol b c).toNat ∧ (symbol b c).toNat ≤ 255 ∧
      (b = 0 → 2 ≤ (symbol b c).toNat ∧ (symbol b c).toNat ≤ 254) ∧
      ((symbol b c).toNat = 255 ↔ b = 1 ∧ c = 254)

/-- R150: the adjustment is never a decrement and never more than 1, in or out of contract, and R153: its four values
outside the contract. -/
def Obligations.AdjustmentForEveryDraw : Prop :=
  (∀ (bit c : Nat), bit < 2 →
    adjust bit c = (if c % 2 = bit then c else c + 1) ∧ adjust bit c % 2 = bit ∧ c ≤ adjust bit c ∧
      adjust bit c ≤ c + 1 ∧ adjust bit c = c + (c % 2 + bit) % 2) ∧
  (∀ (b : Bit) (c : Byte), (symbol b c).toNat = adjust b.toNat c.toNat ∧ (symbol b c).toNat ≤ 256) ∧
  adjust 0 0 = 0 ∧ adjust 1 0 = 1 ∧ adjust 0 255 = 256 ∧ adjust 1 255 = 255

/-- R158: stage ENCODE as a whole, every draw asked for with the bounds 1 and 254 (R107). It writes each of the cells
`INT[0..n)`, so that reading them as a list meets no unwritten cell (R40), and leaves the cells from `n` on as they were. -/
def Obligations.StageEncodeComputesEncode : Prop :=
  ∀ (s : State) (cs rest : List Byte), s.host = [] → s.phase = 2 → s.idx = 0 → 8 ≤ s.nbits → s.nbits ≤ s.cfg.intCap →
    (∀ j, j < s.nbits → (Memory.read s.bits j).isSome = true) → s.draws = cs ++ rest → cs.length = s.nbits →
    ∃ t, stepMany (s.nbits + 1) s = .next t ∧
      Memory.contents t.int s.nbits = List.zipWith symbol (Memory.contents s.bits s.nbits) cs ∧
      (∀ j, j < s.nbits → (Memory.read t.int j).isSome = true) ∧
      (∀ j, s.nbits ≤ j → Memory.read t.int j = Memory.read s.int j) ∧
      t = { s with int := t.int, nint := s.nbits, phase := 3, idx := 0, draws := rest, drawn := s.drawn ++ cs,
                   asked := s.asked ++ List.replicate s.nbits ⟨1, 254⟩ }

/-! ## RasterLayout -/

/-- R165 and R167: `csqrt` is the least number whose square reaches `n`, and the only one whose predecessor's does not;
`ceilDiv` is the least whose product does. -/
def Obligations.CeilingsAreLeast : Prop :=
  (∀ n : Nat, n ≤ csqrt n * csqrt n ∧ ∀ v, n ≤ v * v → csqrt n ≤ v) ∧
  (∀ n w : Nat, 1 ≤ n → 1 ≤ w → ((w - 1) * (w - 1) < n ∧ n ≤ w * w ↔ w = csqrt n)) ∧
  (∀ n w : Nat, 1 ≤ w →
    n ≤ ceilDiv n w * w ∧ (∀ h, n ≤ h * w → ceilDiv n w ≤ h) ∧ ceilDiv n w = (n + w - 1) / w)

/-- R169: the grid is square or one row short of square. -/
def Obligations.DimensionsAreNearSquare : Prop :=
  ∀ n w h : Nat, 1 ≤ n → (w, h) = dims n →
    1 ≤ w ∧ 1 ≤ h ∧ (w - 1) * (w - 1) < n ∧ n ≤ w * w ∧ (n ≤ w * (w - 1) → h = w - 1) ∧ (w * (w - 1) < n → h = w) ∧
      w ≤ n

/-- R170: the grid holds every intensity, the padding is less than a row, and the number of cells does not decrease. -/
def Obligations.CellCountBounds : Prop :=
  (∀ n : Nat, 1 ≤ n → n ≤ cells n ∧ cells n < n + (dims n).1 ∧ cells n < 2 * n ∧
    cells n = (if n ≤ (dims n).1 * ((dims n).1 - 1) then (dims n).1 * ((dims n).1 - 1) else (dims n).1 * (dims n).1)) ∧
  (∀ n m : Nat, 1 ≤ n → n ≤ m → cells n ≤ cells m) ∧
  dims 8 = (3, 3) ∧ dims 16 = (4, 4) ∧ dims 24 = (5, 5) ∧ dims 32 = (6, 6) ∧ dims 40 = (7, 6) ∧ dims 48 = (7, 7) ∧
  dims 56 = (8, 7) ∧ dims 64 = (8, 8)

/-- R265: with the default capacities of R9 a payload that LOAD accepted fits every later buffer. -/
def Obligations.DefaultCapacitiesFitEveryPayload : Prop :=
  ∀ pred n : Nat, 1 ≤ n → n ≤ (defaultParams pred).payloadCap →
    8 * n ≤ (defaultParams pred).bitsCap ∧ 8 * n ≤ (defaultParams pred).intCap ∧
      cells (8 * n) ≤ (defaultParams pred).gridCap

/-- R171 and R172: the clamp, and what it does to the values an INT cell can hold. -/
def Obligations.ClampOnlyChangesOutOfRange : Prop :=
  (∀ v : Int, (v < 0 → clamp v = 0) ∧ (255 < v → clamp v = 255) ∧ (0 ≤ v → v ≤ 255 → clamp v = v)) ∧
  (∀ v : Intensity, (cellOf v).toNat = min v.toNat 255)

/-- R173 and R174: `layout` of a sequence. -/
def Obligations.LayoutPlacesThenPads : Prop :=
  layout [] = .error .emptyInput ∧
  ∀ ints : List Int, ints ≠ [] → ∃ r : Raster, layout ints = .ok r ∧ (r.w, r.h) = dims ints.length ∧
    r.cells.length = r.w * r.h ∧
    (∀ (i : Nat) (v : Int), ints[i]? = some v → ∃ g : Byte, r.cells[i]? = some g ∧ (g.toNat : Int) = clamp v) ∧
    (∀ i, ints.length ≤ i → i < r.w * r.h → r.cells[i]? = some 0)

/-- R175: the cells past the data are 0, and under the draw contract the first 0 is where the data ends. -/
def Obligations.SentinelEndsTheData : Prop :=
  (∀ (ints : List Int) (r : Raster), layout ints = .ok r →
    ∀ i, ints.length ≤ i → i < r.w * r.h → r.cells[i]? = some 0) ∧
  (∀ (bits : List Bit) (draws : List Byte), bits ≠ [] → draws.length = bits.length → RngInRange draws →
    ∃ r : Raster, layout ((encodeBits bits draws).map (fun v => (v.toNat : Int))) = .ok r ∧
      r.cells.findIdx (fun g => decide (g = 0)) = bits.length)

/-- R176: LAY.DIM in its three cases, its dimensions stated by R165 and R167. -/
def Obligations.LayDimDerivesDimensions : Prop :=
  decode (.seq 0b00110) = .ok .layDim ∧ decode (.seq 0b00111) = .ok .layDim ∧
  (∀ s : State, s.nint = 0 → exec .layDim s = .next { s with err := 3, errStage := 3, phase := 8 }) ∧
  (∀ (s : State) (w : Nat), 1 ≤ s.nint → s.nint ≤ w * w → (∀ v, v < w → v * v < s.nint) →
    (w * ((s.nint + w - 1) / w) ≤ s.cfg.gridCap →
      exec .layDim s = .next { s with w := w, h := (s.nint + w - 1) / w, phase := 4, idx := 0 }) ∧
    (s.cfg.gridCap < w * ((s.nint + w - 1) / w) →
      exec .layDim s =
        .next { s with w := w, h := (s.nint + w - 1) / w, err := 2, errStage := 3, phase := 8 }))

/-- R178: LAY.CELL completes; a data cell is clamped, a padding cell is 0 and reads nothing. -/
def Obligations.LayCellFillsOneCell : Prop :=
  decode (.seq 0b01000) = .ok .layCell ∧
  (∀ (s : State) (v : Intensity), s.idx < s.nint → Memory.read s.int s.idx = some v → s.idx < s.cfg.gridCap →
    ∃ (t : State) (g : Byte), exec .layCell s = .next t ∧ g.toNat = (if 255 < v.toNat then 255 else v.toNat) ∧
      Memory.read t.grid s.idx = some g ∧ (∀ j, j ≠ s.idx → Memory.read t.grid j = Memory.read s.grid j) ∧
      t = { s with grid := t.grid, idx := s.idx + 1 }) ∧
  (∀ s : State, s.nint ≤ s.idx → s.idx < s.cfg.gridCap →
    ∃ t : State, exec .layCell s = .next t ∧ Memory.read t.grid s.idx = some 0 ∧
      (∀ j, j ≠ s.idx → Memory.read t.grid j = Memory.read s.grid j) ∧
      t = { s with grid := t.grid, idx := s.idx + 1 })

/-- R157, R179, R190 and R194: the four stage exits that check nothing. -/
def Obligations.StageExitsTransferControl : Prop :=
  decode (.seq 0b00101) = .ok .encEnd ∧ decode (.seq 0b01001) = .ok .layEnd ∧
  decode (.seq 0b01011) = .ok .serHend ∧ decode (.seq 0b01101) = .ok .serEnd ∧
  ∀ s : State,
    exec .encEnd s = .next { s with phase := 3, idx := 0 } ∧ exec .layEnd s = .next { s with phase := 5, idx := 0 } ∧
    exec .serHend s = .next { s with phase := 6, idx := 0 } ∧ exec .serEnd s = .next { s with phase := 7 }

/-- R180: stage RasterLayout as a whole. It writes each of the cells `GRID[0..W*H)`, so that reading them as a list meets no
unwritten cell (R40), and leaves the cells from `W * H` on as they were. -/
def Obligations.StageLayoutComputesLayout : Prop :=
  ∀ s : State, s.host = [] → s.phase = 3 → 1 ≤ s.nint → cells s.nint ≤ s.cfg.gridCap →
    (∀ j, j < s.nint → (Memory.read s.int j).isSome = true) →
    ∃ t, stepMany (1 + cells s.nint + 1) s = .next t ∧
      layout ((Memory.contents s.int s.nint).map (fun v => (v.toNat : Int))) =
        .ok ⟨t.w, t.h, Memory.contents t.grid (t.w * t.h)⟩ ∧
      (∀ j, j < t.w * t.h → (Memory.read t.grid j).isSome = true) ∧
      (∀ j, t.w * t.h ≤ j → Memory.read t.grid j = Memory.read s.grid j) ∧
      t = { s with grid := t.grid, w := t.w, h := t.h, phase := 5, idx := 0 }

/-! ## RasterSerializer -/

/-- R96: `dec` and `nd` satisfy the equations that define them, the numeral has the value `n` and no leading zero. -/
def Obligations.DecimalNumerals : Prop :=
  ∀ n : Nat, 1 ≤ n →
    (n < 10 → dec n = [BitVec.ofNat 8 (0x30 + n)] ∧ nd n = 1) ∧
    (10 ≤ n → dec n = dec (n / 10) ++ [BitVec.ofNat 8 (0x30 + n % 10)] ∧ nd n = 1 + nd (n / 10)) ∧
    (dec n).length = nd n ∧ (dec n).foldl (fun acc b => 10 * acc + (b.toNat - 0x30)) 0 = n ∧
    (dec n).head? ≠ some 0x30 ∧ (∀ b ∈ dec n, 0x30 ≤ b.toNat ∧ b.toNat ≤ 0x39)

/-- R97, R98 and R188: the header's length and each of its bytes. With `w` or `h` 0, which no run reaches, `dec` and `nd` are
the model's choice of log 14. -/
def Obligations.HeaderBytes : Prop :=
  ∀ w h : Nat, (header w h).length = 9 + nd w + nd h ∧
    (header w h)[0]? = some 0x50 ∧ (header w h)[1]? = some 0x35 ∧ (header w h)[2]? = some 0x0A ∧
    (∀ k, k < nd w → (header w h)[3 + k]? = (dec w)[k]?) ∧ (header w h)[3 + nd w]? = some 0x20 ∧
    (∀ k, k < nd h → (header w h)[4 + nd w + k]? = (dec h)[k]?) ∧
    (header w h)[4 + nd w + nd h]? = some 0x0A ∧ (header w h)[5 + nd w + nd h]? = some 0x32 ∧
    (header w h)[6 + nd w + nd h]? = some 0x35 ∧ (header w h)[7 + nd w + nd h]? = some 0x35 ∧
    (header w h)[8 + nd w + nd h]? = some 0x0A

/-- R189: SER.HDR completes with ACCEPT; with FAIL it raises IoError with ERRSTAGE 5 and OUT is unchanged. With W
or H 0, which no run reaches, the header is that of log 14. -/
def Obligations.SerHdrOffersHeaderByte : Prop :=
  decode (.seq 0b01010) = .ok .serHdr ∧
  ∀ (s : State) (rest : List SinkAnswer), s.idx < hlen s.w s.h →
    (s.sink = .accept :: rest →
      ∃ b, (header s.w s.h)[s.idx]? = some b ∧
        exec .serHdr s =
          .next { s with out := s.out ++ [b], outcnt := s.outcnt + 1, idx := s.idx + 1, sink := rest }) ∧
    (s.sink = .fail :: rest →
      exec .serHdr s = .next { s with err := 4, errStage := 5, phase := 8, sink := rest })

/-- R192: SER.PIX completes with ACCEPT; with FAIL it raises IoError with ERRSTAGE 6. -/
def Obligations.SerPixOffersGridCell : Prop :=
  decode (.seq 0b01100) = .ok .serPix ∧
  ∀ (s : State) (rest : List SinkAnswer) (b : Byte), Memory.read s.grid s.idx = some b →
    (s.sink = .accept :: rest →
      exec .serPix s =
        .next { s with out := s.out ++ [b], outcnt := s.outcnt + 1, idx := s.idx + 1, sink := rest }) ∧
    (s.sink = .fail :: rest →
      exec .serPix s = .next { s with err := 4, errStage := 6, phase := 8, sink := rest })

/-- The model's reading (log 4; R126, R264): while a port has not answered, ENC.SYM, SER.HDR and SER.PIX wait. -/
def Obligations.UnansweredPortsWait : Prop :=
  ∀ s : State,
    (s.draws = [] → exec .encSym s = .next s) ∧
    (s.sink = [] → s.idx < hlen s.w s.h → exec .serHdr s = .next s) ∧
    (s.sink = [] → (Memory.read s.grid s.idx).isSome = true → exec .serPix s = .next s)

/-- R196: stage RasterSerializer as a whole, with every byte accepted and with the byte at position `j` refused. -/
def Obligations.StageSerializeSendsFrame : Prop :=
  ∀ (s : State) (frameBytes : List Byte), s.host = [] → s.phase = 5 → s.idx = 0 → s.out = [] → s.outcnt = 0 →
    1 ≤ s.w → 1 ≤ s.h →
    (∀ j, j < s.w * s.h → (Memory.read s.grid j).isSome = true) →
    frameBytes = header s.w s.h ++ Memory.contents s.grid (s.w * s.h) →
    (∀ rest, s.sink = List.replicate frameBytes.length .accept ++ rest →
      stepMany (frameBytes.length + 2) s =
        .next { s with phase := 7, idx := s.w * s.h, out := frameBytes, outcnt := frameBytes.length, sink := rest }) ∧
    (∀ j rest, j < frameBytes.length → s.sink = List.replicate j .accept ++ .fail :: rest →
      stepMany (if j < hlen s.w s.h then j + 1 else j + 2) s =
        .next { s with phase := 8, err := 4, errStage := if j < hlen s.w s.h then 5 else 6,
                       idx := if j < hlen s.w s.h then j else j - hlen s.w s.h, out := frameBytes.take j, outcnt := j,
                       sink := rest })

/-! ## The host's transactions -/

/-- R204: NOP, in every phase. -/
def Obligations.NopIsAcceptedEverywhere : Prop :=
  (∀ w : CmdWord, w.toNat < 0x100 → decode (.cmd w) = .ok .nop) ∧
  ∀ s : State, exec .nop s = .next { s with reply := some .accepted }

/-- R205: LOAD in its three cases. -/
def Obligations.LoadAppendsOneByte : Prop :=
  (∀ (w : CmdWord) (d : Byte), w.toNat = 0x100 + d.toNat → decode (.cmd w) = .ok (.load d)) ∧
  ∀ (s : State) (d : Byte),
    (s.phase ≠ 0 → exec (.load d) s = .next { s with reply := some .refused }) ∧
    (s.phase = 0 → s.plen = s.cfg.payloadCap →
      exec (.load d) s = .next { s with err := 2, errStage := 0, phase := 8, reply := some .accepted }) ∧
    (s.phase = 0 → s.plen < s.cfg.payloadCap →
      ∃ t : State, exec (.load d) s = .next t ∧ Memory.read t.pay s.plen = some d ∧
        (∀ j, j ≠ s.plen → Memory.read t.pay j = Memory.read s.pay j) ∧
        t = { s with pay := t.pay, plen := s.plen + 1, reply := some .accepted })

/-- R206: START in its four cases. -/
def Obligations.StartChecksThenRuns : Prop :=
  (∀ w : CmdWord, 0x200 ≤ w.toNat → w.toNat < 0x300 → decode (.cmd w) = .ok .start) ∧
  ∀ s : State,
    (s.phase ≠ 0 → exec .start s = .next { s with reply := some .refused }) ∧
    (s.phase = 0 → s.plen = 0 →
      exec .start s = .next { s with err := 1, errStage := 0, phase := 8, reply := some .accepted }) ∧
    (s.phase = 0 → 0 < s.plen → s.cfg.bitsCap < 8 * s.plen →
      exec .start s = .next { s with err := 2, errStage := 1, phase := 8, reply := some .accepted }) ∧
    (s.phase = 0 → 0 < s.plen → 8 * s.plen ≤ s.cfg.bitsCap →
      exec .start s = .next { s with nbits := 0, phase := 1, idx := 0, reply := some .accepted })

/-- R106 and R207: RD answers the whole register in every phase; 10 to 15 are refused; nothing else changes. -/
def Obligations.StatusReadAnswersOnly : Prop :=
  (∀ r : RegNum, decode (.rd r) = .ok (.rd r)) ∧
  ∀ (s : State) (r : RegNum),
    exec (.rd r) s = .next { s with
      reply := some (match [s.phase.toNat, s.err.toNat, s.errStage.toNat, s.plen, s.nbits, s.nint, s.w, s.h, s.idx,
        s.outcnt][r.toNat]? with
        | some n => .value n
        | none => .refused) }

/-- R45 and R250: RST, in every phase: accepted, every register 0, every cell unwritten, OUT empty, the ports unused; a
second RST changes nothing. -/
def Obligations.ResetClearsEverything : Prop :=
  decode (.rst 1) = .ok .rst ∧
  ∀ s : State, ∃ t, exec .rst s = .next t ∧ t.phase = 0 ∧ t.err = 0 ∧ t.errStage = 0 ∧ t.plen = 0 ∧ t.nbits = 0 ∧
    t.nint = 0 ∧ t.w = 0 ∧ t.h = 0 ∧ t.idx = 0 ∧ t.outcnt = 0 ∧ t.out = [] ∧
    (∀ i, Memory.read t.pay i = none ∧ Memory.read t.bits i = none ∧ Memory.read t.int i = none ∧
      Memory.read t.grid i = none) ∧
    t.doneO = false ∧ t.errorO = false ∧ t.busyO = false ∧ t.draws = s.draws ∧ t.sink = s.sink ∧
    t.reply = some .accepted ∧ exec .rst t = .next t

/-- R256, and the model's own fields (log 1, log 2, log 3, log 10, log 11): RST leaves the capacities, the turns to come
and what the ports will answer as they are; the records of draws and of requests are emptied and the answer is accepted. -/
def Obligations.ResetLeavesEnvironment : Prop :=
  ∀ s : State, ∃ t, exec .rst s = .next t ∧ t.cfg = s.cfg ∧ t.host = s.host ∧ t.draws = s.draws ∧ t.sink = s.sink ∧
    t.drawn = [] ∧ t.asked = [] ∧ t.reply = some .accepted

/-- R31: the status outputs are functions of PHASE, and in a legal phase exactly one of IDLE, BUSY_O, DONE_O and
ERROR_O holds. -/
def Obligations.ExactlyOneStatusHolds : Prop :=
  ∀ s : State, (s.doneO = true ↔ s.phase = 7) ∧ (s.errorO = true ↔ s.phase = 8) ∧
    (s.busyO = true ↔ 1 ≤ s.phase.toNat ∧ s.phase.toNat ≤ 6) ∧
    (s.phase.toNat ≤ 8 →
      [decide (s.phase = 0), s.busyO, s.doneO, s.errorO].count true = 1)

/-- R19 and R129: a state is final exactly at DONE, ERROR is quiescent and never final, and with a legal PHASE a state is
quiescent exactly when the sequencer has no micro-operation. -/
def Obligations.RunEndsAreQuiescent : Prop :=
  ∀ s : State, (s.final = true ↔ s.phase = 7) ∧ (s.failed = true → s.quiescent = true ∧ s.final = false) ∧
    (s.phase.toNat ≤ 8 → (s.quiescent = true ↔ ∀ i, decode (seqSelector s) ≠ .ok i))

/-! ## Rules of the whole machine -/

/-- R123: every change of PHASE is a row of the table. -/
def Obligations.PhaseChangesAreTabled : Prop :=
  ∀ s t : State, step s = .next t → t.phase ≠ s.phase → ∃ i, decode (nextSelector s) = .ok i ∧ phaseRow i s t

/-- R122: without RST no step goes back to an earlier phase, so no phase is entered twice. -/
def Obligations.PhaseNeverGoesBack : Prop :=
  ∀ s t : State, step s = .next t → decode (nextSelector s) ≠ .ok .rst → s.phase.toNat ≤ t.phase.toNat

/-- R127, R128 and R232: in DONE and ERROR, without RST, no step changes anything but the list of turns and the host's
last answer. -/
def Obligations.DoneAndErrorAreAbsorbing : Prop :=
  ∀ s t : State, (s.phase = 7 ∨ s.phase = 8) → step s = .next t → decode (nextSelector s) ≠ .ok .rst →
    t = { s with host := t.host, reply := t.reply }

/-- R250: under the invariants no step but RST leaves DONE or ERROR, lowers PLEN, NBITS, NINT, W, H or OUTCNT, or clears
ERR. IDX is not among these registers: every `goto` lowers it (R124, R259). -/
def Obligations.OnlyResetLowersRegisters : Prop :=
  ∀ s t : State, Inv s → step s = .next t → decode (nextSelector s) ≠ .ok .rst →
    (s.phase = 7 → t.phase = 7) ∧ (s.phase = 8 → t.phase = 8) ∧ s.plen ≤ t.plen ∧ s.nbits ≤ t.nbits ∧ s.nint ≤ t.nint ∧
      s.w ≤ t.w ∧ s.h ≤ t.h ∧ s.outcnt ≤ t.outcnt ∧ (s.err ≠ 0 → t.err = s.err)

/-- R258 and R76: outside IDLE, without RST, no step changes the payload. -/
def Obligations.PayloadIsImmutableInRun : Prop :=
  ∀ s t : State, s.phase ≠ 0 → step s = .next t → decode (nextSelector s) ≠ .ok .rst →
    t.pay = s.pay ∧ t.plen = s.plen

/-- R32: which operations may change which register and which buffer. -/
def Obligations.RegistersHaveTheirWriters : Prop :=
  ∀ (i : Instr) (s t : State), exec i s = .next t → i ≠ .rst →
    (t.plen ≠ s.plen ∨ t.pay ≠ s.pay → ∃ d, i = .load d) ∧
    (t.nbits ≠ s.nbits → i = .start ∨ i = .packBit) ∧ (t.bits ≠ s.bits → i = .packBit) ∧
    (t.nint ≠ s.nint → i = .packEnd ∨ i = .encSym) ∧ (t.int ≠ s.int → i = .encSym) ∧
    (t.w ≠ s.w ∨ t.h ≠ s.h → i = .layDim) ∧ (t.grid ≠ s.grid → i = .layCell) ∧
    (t.outcnt ≠ s.outcnt ∨ t.out ≠ s.out → i = .serHdr ∨ i = .serPix) ∧
    (t.idx ≠ s.idx → i ≠ .nop ∧ (∀ d, i ≠ .load d) ∧ ∀ r, i ≠ .rd r) ∧
    (t.err ≠ s.err ∨ t.errStage ≠ s.errStage →
      t.phase = 8 ∧ t.err ≠ 0 ∧
        ((∃ d, i = .load d) ∨ i = .start ∨ i = .packEnd ∨ i = .layDim ∨ i = .serHdr ∨ i = .serPix)) ∧
    t.cfg = s.cfg

/-- R220, R221 and R229: a step that raises an error is one of the eight rows, and it leaves everything but PHASE, ERR
and ERRSTAGE as it was: W and H change only in LAY.DIM's AllocationError, an IoError spends the sink's answer, and a host
command is answered. -/
def Obligations.ErrorsArePreciseAndTabled : Prop :=
  ∀ (i : Instr) (s t : State), exec i s = .next t → s.phase ≠ 8 → t.phase = 8 →
    ((i = .start ∧ s.plen = 0 ∧ t.err = 1 ∧ t.errStage = 0) ∨
      ((∃ d, i = .load d) ∧ s.plen = s.cfg.payloadCap ∧ t.err = 2 ∧ t.errStage = 0) ∨
      (i = .start ∧ 8 * s.plen > s.cfg.bitsCap ∧ t.err = 2 ∧ t.errStage = 1) ∨
      (i = .packEnd ∧ s.nbits > s.cfg.intCap ∧ t.err = 2 ∧ t.errStage = 2) ∨
      (i = .layDim ∧ t.w * t.h > s.cfg.gridCap ∧ t.err = 2 ∧ t.errStage = 3) ∨
      (i = .layDim ∧ s.nint = 0 ∧ t.err = 3 ∧ t.errStage = 3) ∨
      (i = .serHdr ∧ s.sink.head? = some .fail ∧ t.err = 4 ∧ t.errStage = 5) ∨
      (i = .serPix ∧ s.sink.head? = some .fail ∧ t.err = 4 ∧ t.errStage = 6)) ∧
    t = { s with phase := 8, err := t.err, errStage := t.errStage, w := t.w, h := t.h, sink := t.sink, reply := t.reply } ∧
    (¬ (i = .layDim ∧ t.err = 2) → t.w = s.w ∧ t.h = s.h) ∧ (t.err ≠ 4 → t.sink = s.sink)

/-- R65, R209 and R210: without RST, OUT and the records of draws and requests only grow, by at most one element a step; a
draw is spent only by ENC.SYM, asked for with the bounds 1 and 254 (R107), and is recorded in order; a byte is sent only by
SER.HDR or SER.PIX against one ACCEPT. -/
def Obligations.PortsAreUsedOncePerElement : Prop :=
  ∀ (i : Instr) (s t : State), exec i s = .next t → i ≠ .rst →
    ((t.draws = s.draws ∧ t.drawn = s.drawn ∧ t.asked = s.asked) ∨
      (i = .encSym ∧ t.asked = s.asked ++ [⟨1, 254⟩] ∧ ∃ c, s.draws = c :: t.draws ∧ t.drawn = s.drawn ++ [c])) ∧
    ((t.sink = s.sink ∧ t.out = s.out ∧ t.outcnt = s.outcnt) ∨
      ((i = .serHdr ∨ i = .serPix) ∧
        ((s.sink = .fail :: t.sink ∧ t.out = s.out ∧ t.outcnt = s.outcnt) ∨
          (s.sink = .accept :: t.sink ∧ ∃ b, t.out = s.out ++ [b] ∧ t.outcnt = s.outcnt + 1 ∧
            (i = .serHdr → (header s.w s.h)[s.idx]? = some b) ∧
            (i = .serPix → Memory.read s.grid s.idx = some b)))))

/-- The buffers stay in canonical form, from any state in which they are. -/
def Obligations.BuffersStayCanonical : Prop :=
  ∀ s t : State, Memory.wf s.pay = true → Memory.wf s.bits = true → Memory.wf s.int = true →
    Memory.wf s.grid = true → step s = .next t →
    Memory.wf t.pay = true ∧ Memory.wf t.bits = true ∧ Memory.wf t.int = true ∧ Memory.wf t.grid = true

/-! ## The invariants -/

/-- R130: the reset state meets the invariants, for all capacities and every environment. -/
def Obligations.ResetMeetsInvariants : Prop :=
  Inv State.reset ∧
  ∀ (cfg : Config.Params) (host : List HostTurn) (draws : List Byte) (sink : List SinkAnswer),
    Inv { State.resetWith cfg with host := host, draws := draws, sink := sink }

/-- R130: every step keeps the invariants. -/
def Obligations.EveryStepKeepsInvariants : Prop :=
  ∀ s t : State, Inv s → step s = .next t → Inv t

/-- R40, R66 and R67: under the invariants every step answers a next state: no read of an unwritten cell, no write past a
buffer's end, no missing header byte, no reserved phase. That the sequencer's turn in IDLE, DONE and ERROR is a next state is
the model's choice of log 5, that a wait for an unanswered port is one that of log 4. -/
def Obligations.InvariantsExcludeFaults : Prop :=
  ∀ s : State, Inv s → ∃ t, step s = .next t

/-- R195: at DONE, OUT is the frame of the raster, and of the payload and the draws. -/
def Obligations.DoneMeansFrameWasSent : Prop :=
  ∀ s : State, Inv s → s.phase = 7 →
    s.out = serialize ⟨s.w, s.h, Memory.contents s.grid (s.w * s.h)⟩ ∧ s.outcnt = hlen s.w s.h + s.w * s.h ∧
      frame (Memory.contents s.pay s.plen) s.drawn = .ok s.out

/-- R74 and R224: after EmptySourceError or AllocationError nothing has been sent; R225: EmptyInputError is never
recorded. -/
def Obligations.EarlyErrorsSendNothing : Prop :=
  ∀ s : State, Inv s → s.phase = 8 →
    s.err ≠ 3 ∧ ((s.err = 1 ∨ s.err = 2) → s.out = [] ∧ s.outcnt = 0) ∧
    (s.err = 4 → ∃ b rest, serialize ⟨s.w, s.h, Memory.contents s.grid (s.w * s.h)⟩ = s.out ++ b :: rest)

/-! ## The whole pipeline -/

/-- R214: a whole run from any state, with every byte accepted, ends in DONE with the frame in OUT, after the steps of R132
and the host's own turns; every draw is asked for with the bounds 1 and 254 (R209); and under the draw
contract the payload can be read back from OUT. -/
def Obligations.WholeRunProducesFrame : Prop :=
  ∀ (s : State) (p cs drawsLeft : List Byte) (sinkLeft : List SinkAnswer),
    p ≠ [] → p.length ≤ s.cfg.payloadCap → 8 * p.length ≤ s.cfg.bitsCap → 8 * p.length ≤ s.cfg.intCap →
    cells (8 * p.length) ≤ s.cfg.gridCap → cs.length = 8 * p.length → s.host = runScript p →
    s.draws = cs ++ drawsLeft →
    s.sink = List.replicate (hlen (dims (8 * p.length)).1 (dims (8 * p.length)).2 + cells (8 * p.length)) .accept ++ sinkLeft →
    ∃ t, stepMany (runSteps p.length) s = .next t ∧ t.phase = 7 ∧ t.err = 0 ∧
      t.nbits = 8 * p.length ∧ t.nint = 8 * p.length ∧ (t.w, t.h) = dims (8 * p.length) ∧ frame p cs = .ok t.out ∧
      t.outcnt = t.out.length ∧ t.asked = List.replicate (8 * p.length) ⟨1, 254⟩ ∧
      (RngInRange cs →
        (∀ (i : Nat) (b : Bit), (pack p)[i]? = some b →
          ∃ v : Byte, t.out[hlen t.w t.h + i]? = some v ∧ v.toNat % 2 = b.toNat ∧ 1 ≤ v.toNat ∧ v.toNat ≤ 255) ∧
        (∀ i, 8 * p.length ≤ i → i < t.w * t.h → t.out[hlen t.w t.h + i]? = some 0) ∧
        readBack p.length (t.out.drop (hlen t.w t.h)) = p)

/-- R92 and R213: under the draw contract the payload can be read back from the frame. -/
def Obligations.FrameCarriesPayload : Prop :=
  ∀ (p draws out : List Byte), p ≠ [] → draws.length = 8 * p.length → RngInRange draws → frame p draws = .ok out →
    ∃ body, out = header (dims (8 * p.length)).1 (dims (8 * p.length)).2 ++ body ∧
      body.length = cells (8 * p.length) ∧
      (∀ (i : Nat) (b : Bit), (pack p)[i]? = some b →
        ∃ v : Byte, body[i]? = some v ∧ v.toNat % 2 = b.toNat ∧ 1 ≤ v.toNat ∧ v.toNat ≤ 255) ∧
      (∀ i, 8 * p.length ≤ i → i < cells (8 * p.length) → body[i]? = some 0) ∧ readBack p.length body = p
end

