-- ==== Sys2Proof/Laws/Memory.lean ====
section
/-! SUPPORT. The laws of buffers: read after write, the canonical form is kept, and what the first cells hold. -/

namespace Sys2Proof.Machine

variable {n : Nat}

@[simp] theorem Memory.read_nil (i : Nat) : Memory.read ([] : Memory n) i = none := rfl

theorem Memory.read_cons (j i : Nat) (v : BitVec n) (m : Memory n) :
    Memory.read ((j, v) :: m) i = if i = j then some v else Memory.read m i := rfl

@[simp] theorem Memory.above_nil (lo : Nat) : Memory.above lo ([] : Memory n) = true := rfl

@[simp] theorem Memory.above_cons (lo j : Nat) (v : BitVec n) (m : Memory n) :
    Memory.above lo ((j, v) :: m) = true ↔ lo < j ∧ Memory.above lo m = true := by
  simp [Memory.above]

@[simp] theorem Memory.wf_nil : Memory.wf ([] : Memory n) = true := rfl

@[simp] theorem Memory.wf_cons (j : Nat) (v : BitVec n) (m : Memory n) :
    Memory.wf ((j, v) :: m) = true ↔ Memory.above j m = true ∧ Memory.wf m = true := by
  simp [Memory.wf]

theorem Memory.above_of_lt {lo hi : Nat} (h : lo < hi) {m : Memory n} (ha : Memory.above hi m = true) :
    Memory.above lo m = true := by
  simp only [Memory.above, List.all_eq_true, decide_eq_true_eq] at ha ⊢
  exact fun c hc => h.trans (ha c hc)

/-- In a canonical buffer nothing is listed at or below a bound of all its indices. -/
theorem Memory.read_above {lo i : Nat} (h : i ≤ lo) :
    ∀ {m : Memory n}, Memory.above lo m = true → Memory.read m i = none
  | [], _ => rfl
  | (j, v) :: m, ha => by
    obtain ⟨hj, hm⟩ := (Memory.above_cons ..).1 ha
    rw [Memory.read_cons, if_neg (by omega), Memory.read_above h hm]

theorem Memory.write_above {lo i : Nat} {v : BitVec n} (hi : lo < i) :
    ∀ {m : Memory n}, Memory.above lo m = true → Memory.above lo (Memory.write m i v) = true
  | [], _ => by simpa [Memory.write] using hi
  | (j, u) :: m, ha => by
    obtain ⟨hj, hm⟩ := (Memory.above_cons ..).1 ha
    unfold Memory.write
    split
    · simp [hi, hj, hm]
    · split
      · simp [hi, hm]
      · simp [hj, Memory.write_above hi hm]

/-- A write keeps the canonical form. -/
theorem Memory.write_wf {i : Nat} {v : BitVec n} :
    ∀ {m : Memory n}, Memory.wf m = true → Memory.wf (Memory.write m i v) = true
  | [], _ => by simp [Memory.write]
  | (j, u) :: m, hw => by
    obtain ⟨ha, hm⟩ := (Memory.wf_cons ..).1 hw
    unfold Memory.write
    split
    · next h => simp [h, ha, hm, Memory.above_of_lt h ha]
    · split
      · next h => subst h; simp [ha, hm]
      · simp [Memory.write_above (by omega : j < i) ha, Memory.write_wf hm]

/-- A read after a write to the same cell gives the value written. -/
@[simp] theorem Memory.read_write_same (i : Nat) (v : BitVec n) :
    ∀ m : Memory n, Memory.read (Memory.write m i v) i = some v
  | [] => by simp [Memory.write, Memory.read]
  | (j, u) :: m => by
    unfold Memory.write
    split
    · simp [Memory.read_cons]
    · split
      · simp [Memory.read_cons]
      · rw [Memory.read_cons, if_neg (by assumption), Memory.read_write_same]

/-- A write leaves every other cell alone. -/
theorem Memory.read_write_other {i k : Nat} (v : BitVec n) (h : k ≠ i) :
    ∀ m : Memory n, Memory.read (Memory.write m i v) k = Memory.read m k
  | [] => by simp [Memory.write, Memory.read_cons, h]
  | (j, u) :: m => by
    unfold Memory.write
    split
    · rw [Memory.read_cons, if_neg h]
    · split
      · next e => subst e; simp [Memory.read_cons, h]
      · rw [Memory.read_cons, Memory.read_cons, Memory.read_write_other v h]

/-- What a cell reads as after a write, in one equation. -/
theorem Memory.read_write (m : Memory n) (i k : Nat) (v : BitVec n) :
    Memory.read (Memory.write m i v) k = if k = i then some v else Memory.read m k := by
  split
  · next h => subst h; exact Memory.read_write_same ..
  · next h => exact Memory.read_write_other v h m

/-- After writing the next cell, all cells up to it are written. -/
theorem Memory.isSome_write_next {m : Memory n} {i : Nat} (v : BitVec n)
    (h : ∀ j, j < i → (Memory.read m j).isSome = true) :
    ∀ j, j < i + 1 → (Memory.read (Memory.write m i v) j).isSome = true := by
  intro j hj
  rw [Memory.read_write]
  split
  · rfl
  · exact h j (by omega)

/-- Writing the next cell leaves every later cell as it was. -/
theorem Memory.later_write_next {m m₀ : Memory n} {i : Nat} (v : BitVec n)
    (h : ∀ j, i ≤ j → Memory.read m j = Memory.read m₀ j) :
    ∀ j, i + 1 ≤ j → Memory.read (Memory.write m i v) j = Memory.read m₀ j := fun j hj => by
  rw [Memory.read_write_other v (by omega), h j (by omega)]

@[simp] theorem Memory.contents_zero (m : Memory n) : Memory.contents m 0 = [] := rfl

@[simp] theorem Memory.contents_length (m : Memory n) (len : Nat) : (Memory.contents m len).length = len := by
  simp [Memory.contents]

theorem Memory.contents_succ (m : Memory n) (len : Nat) :
    Memory.contents m (len + 1) = Memory.contents m len ++ [(Memory.read m len).getD 0] := by
  simp [Memory.contents, List.range_succ]

theorem Memory.contents_getElem? (m : Memory n) {i len : Nat} (h : i < len) :
    (Memory.contents m len)[i]? = some ((Memory.read m i).getD 0) := by
  simp [Memory.contents, h]

/-- Two buffers that read alike below a length have the same contents of that length. -/
theorem Memory.contents_congr {m m' : Memory n} {len : Nat}
    (h : ∀ i, i < len → Memory.read m i = Memory.read m' i) : Memory.contents m len = Memory.contents m' len := by
  unfold Memory.contents
  refine List.map_congr_left fun i hi => ?_
  rw [h i (List.mem_range.1 hi)]

/-- A write at or past a length leaves the contents of that length. -/
theorem Memory.contents_write_ge {m : Memory n} {i len : Nat} {v : BitVec n} (h : len ≤ i) :
    Memory.contents (Memory.write m i v) len = Memory.contents m len :=
  Memory.contents_congr fun k hk => Memory.read_write_other v (by omega) m

/-- Writing the next cell appends its value to the contents. -/
theorem Memory.contents_write_next (m : Memory n) (i : Nat) (v : BitVec n) :
    Memory.contents (Memory.write m i v) (i + 1) = Memory.contents m i ++ [v] := by
  rw [Memory.contents_succ, Memory.contents_write_ge (le_refl i), Memory.read_write_same]
  rfl

/-- Writing the next cell of a buffer written below `i` gives a buffer written below `i + 1`. -/
theorem Memory.written_write_next {m : Memory n} {i : Nat} (v : BitVec n)
    (h : ∀ k, (Memory.read m k).isSome = true ↔ k < i) (k : Nat) :
    (Memory.read (Memory.write m i v) k).isSome = true ↔ k < i + 1 := by
  rw [Memory.read_write]
  split
  · next e => subst e; simp
  · rw [h]; omega

end Sys2Proof.Machine
end

