-- ==== Sys2Proof/Laws/State.lean ====
section
/-! SUPPORT. What each update of the state leaves in each field, so that no later proof unfolds a record update. -/

namespace Sys2Proof.Machine

@[simp] theorem State.goto_phase (p : PhaseCode) (s : State) : (s.goto p).phase = p := rfl
@[simp] theorem State.goto_err (p : PhaseCode) (s : State) : (s.goto p).err = s.err := rfl
@[simp] theorem State.goto_errStage (p : PhaseCode) (s : State) : (s.goto p).errStage = s.errStage := rfl
@[simp] theorem State.goto_plen (p : PhaseCode) (s : State) : (s.goto p).plen = s.plen := rfl
@[simp] theorem State.goto_nbits (p : PhaseCode) (s : State) : (s.goto p).nbits = s.nbits := rfl
@[simp] theorem State.goto_nint (p : PhaseCode) (s : State) : (s.goto p).nint = s.nint := rfl
@[simp] theorem State.goto_w (p : PhaseCode) (s : State) : (s.goto p).w = s.w := rfl
@[simp] theorem State.goto_h (p : PhaseCode) (s : State) : (s.goto p).h = s.h := rfl
@[simp] theorem State.goto_idx (p : PhaseCode) (s : State) : (s.goto p).idx = 0 := rfl
@[simp] theorem State.goto_outcnt (p : PhaseCode) (s : State) : (s.goto p).outcnt = s.outcnt := rfl
@[simp] theorem State.goto_pay (p : PhaseCode) (s : State) : (s.goto p).pay = s.pay := rfl
@[simp] theorem State.goto_bits (p : PhaseCode) (s : State) : (s.goto p).bits = s.bits := rfl
@[simp] theorem State.goto_int (p : PhaseCode) (s : State) : (s.goto p).int = s.int := rfl
@[simp] theorem State.goto_grid (p : PhaseCode) (s : State) : (s.goto p).grid = s.grid := rfl
@[simp] theorem State.goto_out (p : PhaseCode) (s : State) : (s.goto p).out = s.out := rfl
@[simp] theorem State.goto_cfg (p : PhaseCode) (s : State) : (s.goto p).cfg = s.cfg := rfl
@[simp] theorem State.goto_host (p : PhaseCode) (s : State) : (s.goto p).host = s.host := rfl
@[simp] theorem State.goto_reply (p : PhaseCode) (s : State) : (s.goto p).reply = s.reply := rfl
@[simp] theorem State.goto_draws (p : PhaseCode) (s : State) : (s.goto p).draws = s.draws := rfl
@[simp] theorem State.goto_drawn (p : PhaseCode) (s : State) : (s.goto p).drawn = s.drawn := rfl
@[simp] theorem State.goto_asked (p : PhaseCode) (s : State) : (s.goto p).asked = s.asked := rfl
@[simp] theorem State.goto_sink (p : PhaseCode) (s : State) : (s.goto p).sink = s.sink := rfl

@[simp] theorem State.raise_phase (e : ErrKind) (g : PhaseCode) (s : State) : (s.raise e g).phase = phError := rfl
@[simp] theorem State.raise_err (e : ErrKind) (g : PhaseCode) (s : State) : (s.raise e g).err = e.code := rfl
@[simp] theorem State.raise_errStage (e : ErrKind) (g : PhaseCode) (s : State) : (s.raise e g).errStage = g := rfl
@[simp] theorem State.raise_plen (e : ErrKind) (g : PhaseCode) (s : State) : (s.raise e g).plen = s.plen := rfl
@[simp] theorem State.raise_nbits (e : ErrKind) (g : PhaseCode) (s : State) : (s.raise e g).nbits = s.nbits := rfl
@[simp] theorem State.raise_nint (e : ErrKind) (g : PhaseCode) (s : State) : (s.raise e g).nint = s.nint := rfl
@[simp] theorem State.raise_w (e : ErrKind) (g : PhaseCode) (s : State) : (s.raise e g).w = s.w := rfl
@[simp] theorem State.raise_h (e : ErrKind) (g : PhaseCode) (s : State) : (s.raise e g).h = s.h := rfl
@[simp] theorem State.raise_idx (e : ErrKind) (g : PhaseCode) (s : State) : (s.raise e g).idx = s.idx := rfl
@[simp] theorem State.raise_outcnt (e : ErrKind) (g : PhaseCode) (s : State) : (s.raise e g).outcnt = s.outcnt := rfl
@[simp] theorem State.raise_pay (e : ErrKind) (g : PhaseCode) (s : State) : (s.raise e g).pay = s.pay := rfl
@[simp] theorem State.raise_bits (e : ErrKind) (g : PhaseCode) (s : State) : (s.raise e g).bits = s.bits := rfl
@[simp] theorem State.raise_int (e : ErrKind) (g : PhaseCode) (s : State) : (s.raise e g).int = s.int := rfl
@[simp] theorem State.raise_grid (e : ErrKind) (g : PhaseCode) (s : State) : (s.raise e g).grid = s.grid := rfl
@[simp] theorem State.raise_out (e : ErrKind) (g : PhaseCode) (s : State) : (s.raise e g).out = s.out := rfl
@[simp] theorem State.raise_cfg (e : ErrKind) (g : PhaseCode) (s : State) : (s.raise e g).cfg = s.cfg := rfl
@[simp] theorem State.raise_host (e : ErrKind) (g : PhaseCode) (s : State) : (s.raise e g).host = s.host := rfl
@[simp] theorem State.raise_reply (e : ErrKind) (g : PhaseCode) (s : State) : (s.raise e g).reply = s.reply := rfl
@[simp] theorem State.raise_draws (e : ErrKind) (g : PhaseCode) (s : State) : (s.raise e g).draws = s.draws := rfl
@[simp] theorem State.raise_drawn (e : ErrKind) (g : PhaseCode) (s : State) : (s.raise e g).drawn = s.drawn := rfl
@[simp] theorem State.raise_asked (e : ErrKind) (g : PhaseCode) (s : State) : (s.raise e g).asked = s.asked := rfl
@[simp] theorem State.raise_sink (e : ErrKind) (g : PhaseCode) (s : State) : (s.raise e g).sink = s.sink := rfl

@[simp] theorem State.accept_phase (s : State) : (s.accept).phase = s.phase := rfl
@[simp] theorem State.accept_err (s : State) : (s.accept).err = s.err := rfl
@[simp] theorem State.accept_errStage (s : State) : (s.accept).errStage = s.errStage := rfl
@[simp] theorem State.accept_plen (s : State) : (s.accept).plen = s.plen := rfl
@[simp] theorem State.accept_nbits (s : State) : (s.accept).nbits = s.nbits := rfl
@[simp] theorem State.accept_nint (s : State) : (s.accept).nint = s.nint := rfl
@[simp] theorem State.accept_w (s : State) : (s.accept).w = s.w := rfl
@[simp] theorem State.accept_h (s : State) : (s.accept).h = s.h := rfl
@[simp] theorem State.accept_idx (s : State) : (s.accept).idx = s.idx := rfl
@[simp] theorem State.accept_outcnt (s : State) : (s.accept).outcnt = s.outcnt := rfl
@[simp] theorem State.accept_pay (s : State) : (s.accept).pay = s.pay := rfl
@[simp] theorem State.accept_bits (s : State) : (s.accept).bits = s.bits := rfl
@[simp] theorem State.accept_int (s : State) : (s.accept).int = s.int := rfl
@[simp] theorem State.accept_grid (s : State) : (s.accept).grid = s.grid := rfl
@[simp] theorem State.accept_out (s : State) : (s.accept).out = s.out := rfl
@[simp] theorem State.accept_cfg (s : State) : (s.accept).cfg = s.cfg := rfl
@[simp] theorem State.accept_host (s : State) : (s.accept).host = s.host := rfl
@[simp] theorem State.accept_reply (s : State) : (s.accept).reply = some .accepted := rfl
@[simp] theorem State.accept_draws (s : State) : (s.accept).draws = s.draws := rfl
@[simp] theorem State.accept_drawn (s : State) : (s.accept).drawn = s.drawn := rfl
@[simp] theorem State.accept_asked (s : State) : (s.accept).asked = s.asked := rfl
@[simp] theorem State.accept_sink (s : State) : (s.accept).sink = s.sink := rfl

@[simp] theorem State.refuse_phase (s : State) : (s.refuse).phase = s.phase := rfl
@[simp] theorem State.refuse_err (s : State) : (s.refuse).err = s.err := rfl
@[simp] theorem State.refuse_errStage (s : State) : (s.refuse).errStage = s.errStage := rfl
@[simp] theorem State.refuse_plen (s : State) : (s.refuse).plen = s.plen := rfl
@[simp] theorem State.refuse_nbits (s : State) : (s.refuse).nbits = s.nbits := rfl
@[simp] theorem State.refuse_nint (s : State) : (s.refuse).nint = s.nint := rfl
@[simp] theorem State.refuse_w (s : State) : (s.refuse).w = s.w := rfl
@[simp] theorem State.refuse_h (s : State) : (s.refuse).h = s.h := rfl
@[simp] theorem State.refuse_idx (s : State) : (s.refuse).idx = s.idx := rfl
@[simp] theorem State.refuse_outcnt (s : State) : (s.refuse).outcnt = s.outcnt := rfl
@[simp] theorem State.refuse_pay (s : State) : (s.refuse).pay = s.pay := rfl
@[simp] theorem State.refuse_bits (s : State) : (s.refuse).bits = s.bits := rfl
@[simp] theorem State.refuse_int (s : State) : (s.refuse).int = s.int := rfl
@[simp] theorem State.refuse_grid (s : State) : (s.refuse).grid = s.grid := rfl
@[simp] theorem State.refuse_out (s : State) : (s.refuse).out = s.out := rfl
@[simp] theorem State.refuse_cfg (s : State) : (s.refuse).cfg = s.cfg := rfl
@[simp] theorem State.refuse_host (s : State) : (s.refuse).host = s.host := rfl
@[simp] theorem State.refuse_reply (s : State) : (s.refuse).reply = some .refused := rfl
@[simp] theorem State.refuse_draws (s : State) : (s.refuse).draws = s.draws := rfl
@[simp] theorem State.refuse_drawn (s : State) : (s.refuse).drawn = s.drawn := rfl
@[simp] theorem State.refuse_asked (s : State) : (s.refuse).asked = s.asked := rfl
@[simp] theorem State.refuse_sink (s : State) : (s.refuse).sink = s.sink := rfl

@[simp] theorem State.answerValue_phase (n : Nat) (s : State) : (s.answerValue n).phase = s.phase := rfl
@[simp] theorem State.answerValue_err (n : Nat) (s : State) : (s.answerValue n).err = s.err := rfl
@[simp] theorem State.answerValue_errStage (n : Nat) (s : State) : (s.answerValue n).errStage = s.errStage := rfl
@[simp] theorem State.answerValue_plen (n : Nat) (s : State) : (s.answerValue n).plen = s.plen := rfl
@[simp] theorem State.answerValue_nbits (n : Nat) (s : State) : (s.answerValue n).nbits = s.nbits := rfl
@[simp] theorem State.answerValue_nint (n : Nat) (s : State) : (s.answerValue n).nint = s.nint := rfl
@[simp] theorem State.answerValue_w (n : Nat) (s : State) : (s.answerValue n).w = s.w := rfl
@[simp] theorem State.answerValue_h (n : Nat) (s : State) : (s.answerValue n).h = s.h := rfl
@[simp] theorem State.answerValue_idx (n : Nat) (s : State) : (s.answerValue n).idx = s.idx := rfl
@[simp] theorem State.answerValue_outcnt (n : Nat) (s : State) : (s.answerValue n).outcnt = s.outcnt := rfl
@[simp] theorem State.answerValue_pay (n : Nat) (s : State) : (s.answerValue n).pay = s.pay := rfl
@[simp] theorem State.answerValue_bits (n : Nat) (s : State) : (s.answerValue n).bits = s.bits := rfl
@[simp] theorem State.answerValue_int (n : Nat) (s : State) : (s.answerValue n).int = s.int := rfl
@[simp] theorem State.answerValue_grid (n : Nat) (s : State) : (s.answerValue n).grid = s.grid := rfl
@[simp] theorem State.answerValue_out (n : Nat) (s : State) : (s.answerValue n).out = s.out := rfl
@[simp] theorem State.answerValue_cfg (n : Nat) (s : State) : (s.answerValue n).cfg = s.cfg := rfl
@[simp] theorem State.answerValue_host (n : Nat) (s : State) : (s.answerValue n).host = s.host := rfl
@[simp] theorem State.answerValue_reply (n : Nat) (s : State) : (s.answerValue n).reply = some (.value n) := rfl
@[simp] theorem State.answerValue_draws (n : Nat) (s : State) : (s.answerValue n).draws = s.draws := rfl
@[simp] theorem State.answerValue_drawn (n : Nat) (s : State) : (s.answerValue n).drawn = s.drawn := rfl
@[simp] theorem State.answerValue_asked (n : Nat) (s : State) : (s.answerValue n).asked = s.asked := rfl
@[simp] theorem State.answerValue_sink (n : Nat) (s : State) : (s.answerValue n).sink = s.sink := rfl

@[simp] theorem State.accepted_phase (b : Byte) (s : State) : (s.accepted b).phase = s.phase := rfl
@[simp] theorem State.accepted_err (b : Byte) (s : State) : (s.accepted b).err = s.err := rfl
@[simp] theorem State.accepted_errStage (b : Byte) (s : State) : (s.accepted b).errStage = s.errStage := rfl
@[simp] theorem State.accepted_plen (b : Byte) (s : State) : (s.accepted b).plen = s.plen := rfl
@[simp] theorem State.accepted_nbits (b : Byte) (s : State) : (s.accepted b).nbits = s.nbits := rfl
@[simp] theorem State.accepted_nint (b : Byte) (s : State) : (s.accepted b).nint = s.nint := rfl
@[simp] theorem State.accepted_w (b : Byte) (s : State) : (s.accepted b).w = s.w := rfl
@[simp] theorem State.accepted_h (b : Byte) (s : State) : (s.accepted b).h = s.h := rfl
@[simp] theorem State.accepted_idx (b : Byte) (s : State) : (s.accepted b).idx = s.idx + 1 := rfl
@[simp] theorem State.accepted_outcnt (b : Byte) (s : State) : (s.accepted b).outcnt = s.outcnt + 1 := rfl
@[simp] theorem State.accepted_pay (b : Byte) (s : State) : (s.accepted b).pay = s.pay := rfl
@[simp] theorem State.accepted_bits (b : Byte) (s : State) : (s.accepted b).bits = s.bits := rfl
@[simp] theorem State.accepted_int (b : Byte) (s : State) : (s.accepted b).int = s.int := rfl
@[simp] theorem State.accepted_grid (b : Byte) (s : State) : (s.accepted b).grid = s.grid := rfl
@[simp] theorem State.accepted_out (b : Byte) (s : State) : (s.accepted b).out = s.out ++ [b] := rfl
@[simp] theorem State.accepted_cfg (b : Byte) (s : State) : (s.accepted b).cfg = s.cfg := rfl
@[simp] theorem State.accepted_host (b : Byte) (s : State) : (s.accepted b).host = s.host := rfl
@[simp] theorem State.accepted_reply (b : Byte) (s : State) : (s.accepted b).reply = s.reply := rfl
@[simp] theorem State.accepted_draws (b : Byte) (s : State) : (s.accepted b).draws = s.draws := rfl
@[simp] theorem State.accepted_drawn (b : Byte) (s : State) : (s.accepted b).drawn = s.drawn := rfl
@[simp] theorem State.accepted_asked (b : Byte) (s : State) : (s.accepted b).asked = s.asked := rfl
@[simp] theorem State.accepted_sink (b : Byte) (s : State) : (s.accepted b).sink = s.sink := rfl

@[simp] theorem State.resetBlock_phase (s : State) : (s.resetBlock).phase = phIdle := rfl
@[simp] theorem State.resetBlock_err (s : State) : (s.resetBlock).err = 0 := rfl
@[simp] theorem State.resetBlock_errStage (s : State) : (s.resetBlock).errStage = 0 := rfl
@[simp] theorem State.resetBlock_plen (s : State) : (s.resetBlock).plen = 0 := rfl
@[simp] theorem State.resetBlock_nbits (s : State) : (s.resetBlock).nbits = 0 := rfl
@[simp] theorem State.resetBlock_nint (s : State) : (s.resetBlock).nint = 0 := rfl
@[simp] theorem State.resetBlock_w (s : State) : (s.resetBlock).w = 0 := rfl
@[simp] theorem State.resetBlock_h (s : State) : (s.resetBlock).h = 0 := rfl
@[simp] theorem State.resetBlock_idx (s : State) : (s.resetBlock).idx = 0 := rfl
@[simp] theorem State.resetBlock_outcnt (s : State) : (s.resetBlock).outcnt = 0 := rfl
@[simp] theorem State.resetBlock_pay (s : State) : (s.resetBlock).pay = [] := rfl
@[simp] theorem State.resetBlock_bits (s : State) : (s.resetBlock).bits = [] := rfl
@[simp] theorem State.resetBlock_int (s : State) : (s.resetBlock).int = [] := rfl
@[simp] theorem State.resetBlock_grid (s : State) : (s.resetBlock).grid = [] := rfl
@[simp] theorem State.resetBlock_out (s : State) : (s.resetBlock).out = [] := rfl
@[simp] theorem State.resetBlock_cfg (s : State) : (s.resetBlock).cfg = s.cfg := rfl
@[simp] theorem State.resetBlock_host (s : State) : (s.resetBlock).host = s.host := rfl
@[simp] theorem State.resetBlock_reply (s : State) : (s.resetBlock).reply = s.reply := rfl
@[simp] theorem State.resetBlock_draws (s : State) : (s.resetBlock).draws = s.draws := rfl
@[simp] theorem State.resetBlock_drawn (s : State) : (s.resetBlock).drawn = [] := rfl
@[simp] theorem State.resetBlock_asked (s : State) : (s.resetBlock).asked = [] := rfl
@[simp] theorem State.resetBlock_sink (s : State) : (s.resetBlock).sink = s.sink := rfl

@[simp] theorem takeTurn_phase (s : State) : (takeTurn s).phase = s.phase := rfl
@[simp] theorem takeTurn_err (s : State) : (takeTurn s).err = s.err := rfl
@[simp] theorem takeTurn_errStage (s : State) : (takeTurn s).errStage = s.errStage := rfl
@[simp] theorem takeTurn_plen (s : State) : (takeTurn s).plen = s.plen := rfl
@[simp] theorem takeTurn_nbits (s : State) : (takeTurn s).nbits = s.nbits := rfl
@[simp] theorem takeTurn_nint (s : State) : (takeTurn s).nint = s.nint := rfl
@[simp] theorem takeTurn_w (s : State) : (takeTurn s).w = s.w := rfl
@[simp] theorem takeTurn_h (s : State) : (takeTurn s).h = s.h := rfl
@[simp] theorem takeTurn_idx (s : State) : (takeTurn s).idx = s.idx := rfl
@[simp] theorem takeTurn_outcnt (s : State) : (takeTurn s).outcnt = s.outcnt := rfl
@[simp] theorem takeTurn_pay (s : State) : (takeTurn s).pay = s.pay := rfl
@[simp] theorem takeTurn_bits (s : State) : (takeTurn s).bits = s.bits := rfl
@[simp] theorem takeTurn_int (s : State) : (takeTurn s).int = s.int := rfl
@[simp] theorem takeTurn_grid (s : State) : (takeTurn s).grid = s.grid := rfl
@[simp] theorem takeTurn_out (s : State) : (takeTurn s).out = s.out := rfl
@[simp] theorem takeTurn_cfg (s : State) : (takeTurn s).cfg = s.cfg := rfl
@[simp] theorem takeTurn_host (s : State) : (takeTurn s).host = s.host.tail := rfl
@[simp] theorem takeTurn_reply (s : State) : (takeTurn s).reply = s.reply := rfl
@[simp] theorem takeTurn_draws (s : State) : (takeTurn s).draws = s.draws := rfl
@[simp] theorem takeTurn_drawn (s : State) : (takeTurn s).drawn = s.drawn := rfl
@[simp] theorem takeTurn_asked (s : State) : (takeTurn s).asked = s.asked := rfl
@[simp] theorem takeTurn_sink (s : State) : (takeTurn s).sink = s.sink := rfl

@[simp] theorem State.resetWith_phase (c : Config.Params) : (State.resetWith c).phase = phIdle := rfl
@[simp] theorem State.resetWith_err (c : Config.Params) : (State.resetWith c).err = 0 := rfl
@[simp] theorem State.resetWith_errStage (c : Config.Params) : (State.resetWith c).errStage = 0 := rfl
@[simp] theorem State.resetWith_plen (c : Config.Params) : (State.resetWith c).plen = 0 := rfl
@[simp] theorem State.resetWith_nbits (c : Config.Params) : (State.resetWith c).nbits = 0 := rfl
@[simp] theorem State.resetWith_nint (c : Config.Params) : (State.resetWith c).nint = 0 := rfl
@[simp] theorem State.resetWith_w (c : Config.Params) : (State.resetWith c).w = 0 := rfl
@[simp] theorem State.resetWith_h (c : Config.Params) : (State.resetWith c).h = 0 := rfl
@[simp] theorem State.resetWith_idx (c : Config.Params) : (State.resetWith c).idx = 0 := rfl
@[simp] theorem State.resetWith_outcnt (c : Config.Params) : (State.resetWith c).outcnt = 0 := rfl
@[simp] theorem State.resetWith_pay (c : Config.Params) : (State.resetWith c).pay = [] := rfl
@[simp] theorem State.resetWith_bits (c : Config.Params) : (State.resetWith c).bits = [] := rfl
@[simp] theorem State.resetWith_int (c : Config.Params) : (State.resetWith c).int = [] := rfl
@[simp] theorem State.resetWith_grid (c : Config.Params) : (State.resetWith c).grid = [] := rfl
@[simp] theorem State.resetWith_out (c : Config.Params) : (State.resetWith c).out = [] := rfl
@[simp] theorem State.resetWith_cfg (c : Config.Params) : (State.resetWith c).cfg = c := rfl
@[simp] theorem State.resetWith_host (c : Config.Params) : (State.resetWith c).host = [] := rfl
@[simp] theorem State.resetWith_reply (c : Config.Params) : (State.resetWith c).reply = none := rfl
@[simp] theorem State.resetWith_draws (c : Config.Params) : (State.resetWith c).draws = [] := rfl
@[simp] theorem State.resetWith_drawn (c : Config.Params) : (State.resetWith c).drawn = [] := rfl
@[simp] theorem State.resetWith_asked (c : Config.Params) : (State.resetWith c).asked = [] := rfl
@[simp] theorem State.resetWith_sink (c : Config.Params) : (State.resetWith c).sink = [] := rfl

@[simp] theorem withDims_phase (s : State) : (withDims s).phase = s.phase := rfl
@[simp] theorem withDims_err (s : State) : (withDims s).err = s.err := rfl
@[simp] theorem withDims_errStage (s : State) : (withDims s).errStage = s.errStage := rfl
@[simp] theorem withDims_plen (s : State) : (withDims s).plen = s.plen := rfl
@[simp] theorem withDims_nbits (s : State) : (withDims s).nbits = s.nbits := rfl
@[simp] theorem withDims_nint (s : State) : (withDims s).nint = s.nint := rfl
@[simp] theorem withDims_w (s : State) : (withDims s).w = (dims s.nint).1 := rfl
@[simp] theorem withDims_h (s : State) : (withDims s).h = (dims s.nint).2 := rfl
@[simp] theorem withDims_idx (s : State) : (withDims s).idx = s.idx := rfl
@[simp] theorem withDims_outcnt (s : State) : (withDims s).outcnt = s.outcnt := rfl
@[simp] theorem withDims_pay (s : State) : (withDims s).pay = s.pay := rfl
@[simp] theorem withDims_bits (s : State) : (withDims s).bits = s.bits := rfl
@[simp] theorem withDims_int (s : State) : (withDims s).int = s.int := rfl
@[simp] theorem withDims_grid (s : State) : (withDims s).grid = s.grid := rfl
@[simp] theorem withDims_out (s : State) : (withDims s).out = s.out := rfl
@[simp] theorem withDims_cfg (s : State) : (withDims s).cfg = s.cfg := rfl
@[simp] theorem withDims_host (s : State) : (withDims s).host = s.host := rfl
@[simp] theorem withDims_reply (s : State) : (withDims s).reply = s.reply := rfl
@[simp] theorem withDims_draws (s : State) : (withDims s).draws = s.draws := rfl
@[simp] theorem withDims_drawn (s : State) : (withDims s).drawn = s.drawn := rfl
@[simp] theorem withDims_asked (s : State) : (withDims s).asked = s.asked := rfl
@[simp] theorem withDims_sink (s : State) : (withDims s).sink = s.sink := rfl

end Sys2Proof.Machine
end

