-- ==== Sys2Proof/Laws/Ops.lean ====
section
/-! SUPPORT. For each shared operation, everything it can do when it answers a next state. -/

namespace Sys2Proof.Machine

variable {n : Nat}

/-- Deriving that one next state is another from the outcomes' equality. -/
theorem next_inj {s t : State} (h : (Host.Outcome.next s : Result) = .next t) : t = s := by
  injection h with h; exact h.symm

theorem memRead_of_some {space : Space} {m : Memory n} {i : Nat} {v : BitVec n} {k : BitVec n → Result}
    (h : Memory.read m i = some v) : memRead space m i k = k v := by
  simp [memRead, h]

theorem memRead_of_none {space : Space} {m : Memory n} {i : Nat} {k : BitVec n → Result}
    (h : Memory.read m i = none) : memRead space m i k = .fault (.unwrittenCell space i) := by
  simp [memRead, h]

/-- MemRead goes on only with the value of a written cell. -/
theorem memRead_next {space : Space} {m : Memory n} {i : Nat} {k : BitVec n → Result} {t : State}
    (h : memRead space m i k = .next t) : ∃ v, Memory.read m i = some v ∧ k v = .next t := by
  unfold memRead at h
  split at h
  · next v hv => exact ⟨v, hv, h⟩
  · cases h

theorem memWrite_of_lt {space : Space} {cap : Nat} {m : Memory n} {i : Nat} {v : BitVec n} {k : Memory n → Result}
    (h : i < cap) : memWrite space cap m i v k = k (Memory.write m i v) := if_pos h

theorem memWrite_of_ge {space : Space} {cap : Nat} {m : Memory n} {i : Nat} {v : BitVec n} {k : Memory n → Result}
    (h : cap ≤ i) : memWrite space cap m i v k = .fault (.noSuchCell space i) := if_neg (by omega)

/-- MemWrite goes on only below the capacity, with the written buffer. -/
theorem memWrite_next {space : Space} {cap : Nat} {m : Memory n} {i : Nat} {v : BitVec n} {k : Memory n → Result}
    {t : State} (h : memWrite space cap m i v k = .next t) : i < cap ∧ k (Memory.write m i v) = .next t := by
  unfold memWrite at h
  split at h
  · next hi => exact ⟨hi, h⟩
  · cases h

/-- Draw waits, or goes on with the source's next answer, recorded as drawn, and its bounds recorded as asked. -/
theorem draw_next {lo hi : Nat} {s t : State} {k : Byte → State → Result} (h : draw lo hi s k = .next t) :
    (s.draws = [] ∧ t = s) ∨
      ∃ c rest, s.draws = c :: rest ∧
        k c { s with draws := rest, drawn := s.drawn ++ [c], asked := s.asked ++ [⟨lo, hi⟩] } = .next t := by
  unfold draw at h
  split at h
  · next hd => exact .inl ⟨hd, next_inj h⟩
  · next c rest hd => exact .inr ⟨c, rest, hd, h⟩

/-- Emit waits, lengthens OUT, or raises IoError; nothing else. -/
theorem emit_next {s t : State} {b : Byte} {stage : PhaseCode} (h : emit b stage s = .next t) :
    (s.sink = [] ∧ t = s) ∨
      (∃ rest, s.sink = .accept :: rest ∧ t = State.accepted b { s with sink := rest }) ∨
      (∃ rest, s.sink = .fail :: rest ∧ t = State.raise .io stage { s with sink := rest }) := by
  unfold emit at h
  split at h
  · next hs => exact .inl ⟨hs, next_inj h⟩
  · next rest hs => exact .inr (.inl ⟨rest, hs, next_inj h⟩)
  · next rest hs => exact .inr (.inr ⟨rest, hs, next_inj h⟩)

end Sys2Proof.Machine
end

