-- ==== Sys2Proof/Laws/Exec.lean ====
section
/-! SUPPORT. For each operation, everything it can do when it answers a next state. -/

namespace Sys2Proof.Machine

variable {s t : State}

/-- What PACK.BIT leaves when the payload byte is `byt` (R143). -/
theorem execPackBit_next (h : execPackBit s = .next t) :
    ∃ byt, Memory.read s.pay (s.idx / 8) = some byt ∧ s.idx < s.cfg.bitsCap ∧
      t = { s with bits := Memory.write s.bits s.idx (bitOf byt (7 - s.idx % 8)), nbits := s.idx + 1, idx := s.idx + 1 } := by
  obtain ⟨byt, hr, h⟩ := memRead_next h
  obtain ⟨hc, h⟩ := memWrite_next h
  exact ⟨byt, hr, hc, next_inj h⟩

theorem execPackEnd_next (h : execPackEnd s = .next t) :
    (s.cfg.intCap < s.nbits ∧ t = s.raise .allocation phEncode) ∨
      (s.nbits ≤ s.cfg.intCap ∧ t = State.goto phEncode { s with nint := 0 }) := by
  unfold execPackEnd at h
  split at h
  · next hc => exact .inl ⟨hc, next_inj h⟩
  · next hc => exact .inr ⟨by omega, next_inj h⟩

/-- ENC.SYM waits, or takes one draw, asked for from 1 to 254, and writes one intensity (R156). -/
theorem execEncSym_next (h : execEncSym s = .next t) :
    (s.draws = [] ∧ t = s) ∨
      ∃ c rest b, s.draws = c :: rest ∧ Memory.read s.bits s.idx = some b ∧ s.idx < s.cfg.intCap ∧
        t = { s with draws := rest, drawn := s.drawn ++ [c],
                     asked := s.asked ++ [⟨Config.drawLo, Config.drawHi⟩], int := Memory.write s.int s.idx (symbol b c),
                     nint := s.idx + 1, idx := s.idx + 1 } := by
  obtain h | ⟨c, rest, hd, h⟩ := draw_next h
  · exact .inl h
  · obtain ⟨b, hr, h⟩ := memRead_next h
    obtain ⟨hc, h⟩ := memWrite_next h
    exact .inr ⟨c, rest, b, hd, hr, hc, next_inj h⟩

theorem execEncEnd_next (h : execEncEnd s = .next t) : t = s.goto phDim := next_inj h

/-- LAY.DIM raises EmptyInputError, raises AllocationError with W and H written, or goes to FILL (R176). -/
theorem execLayDim_next (h : execLayDim s = .next t) :
    (s.nint = 0 ∧ t = s.raise .emptyInput phDim) ∨
      (s.nint ≠ 0 ∧ s.cfg.gridCap < cells s.nint ∧ t = (withDims s).raise .allocation phDim) ∨
      (s.nint ≠ 0 ∧ cells s.nint ≤ s.cfg.gridCap ∧ t = (withDims s).goto phFill) := by
  unfold execLayDim at h
  split at h
  · next hn => exact .inl ⟨hn, next_inj h⟩
  · next hn =>
    split at h
    · next hc => exact .inr (.inl ⟨hn, hc, next_inj h⟩)
    · next hc => exact .inr (.inr ⟨hn, Nat.le_of_not_gt hc, next_inj h⟩)

theorem cellValue_next {k : Byte → Result} (h : cellValue s k = .next t) :
    ∃ g, k g = .next t ∧
      ((s.idx < s.nint ∧ ∃ v, Memory.read s.int s.idx = some v ∧ g = cellOf v) ∨
        (s.nint ≤ s.idx ∧ g = Config.sentinel)) := by
  unfold cellValue at h
  split at h
  · next hi =>
    obtain ⟨v, hr, h⟩ := memRead_next h
    exact ⟨_, h, .inl ⟨hi, v, hr, rfl⟩⟩
  · next hi => exact ⟨_, h, .inr ⟨by omega, rfl⟩⟩

/-- LAY.CELL writes one cell: a clamped intensity, or the sentinel (R178). -/
theorem execLayCell_next (h : execLayCell s = .next t) :
    ∃ g, ((s.idx < s.nint ∧ ∃ v, Memory.read s.int s.idx = some v ∧ g = cellOf v) ∨
        (s.nint ≤ s.idx ∧ g = Config.sentinel)) ∧
      s.idx < s.cfg.gridCap ∧ t = { s with grid := Memory.write s.grid s.idx g, idx := s.idx + 1 } := by
  obtain ⟨g, h, hg⟩ := cellValue_next h
  obtain ⟨hc, h⟩ := memWrite_next h
  exact ⟨g, hg, hc, next_inj h⟩

theorem execLayEnd_next (h : execLayEnd s = .next t) : t = s.goto phHeader := next_inj h

/-- SER.HDR offers a byte of the header (R189). -/
theorem execSerHdr_next (h : execSerHdr s = .next t) :
    ∃ b, (header s.w s.h)[s.idx]? = some b ∧ emit b phHeader s = .next t := by
  unfold execSerHdr at h
  split at h
  · next b hb => exact ⟨b, hb, h⟩
  · cases h

theorem execSerHend_next (h : execSerHend s = .next t) : t = s.goto phBody := next_inj h

/-- SER.PIX offers a cell of GRID (R192). -/
theorem execSerPix_next (h : execSerPix s = .next t) :
    ∃ b, Memory.read s.grid s.idx = some b ∧ emit b phBody s = .next t := memRead_next h

theorem execSerEnd_next (h : execSerEnd s = .next t) : t = { s with phase := phDone } := next_inj h

theorem execNop_next (h : execNop s = .next t) : t = s.accept := next_inj h

/-- LOAD is refused, raises AllocationError, or appends the byte (R205). -/
theorem execLoad_next {d : Byte} (h : execLoad d s = .next t) :
    (s.phase ≠ phIdle ∧ t = s.refuse) ∨
      (s.phase = phIdle ∧ s.plen = s.cfg.payloadCap ∧ t = (s.raise .allocation phIdle).accept) ∨
      (s.phase = phIdle ∧ s.plen < s.cfg.payloadCap ∧
        t = State.accept { s with pay := Memory.write s.pay s.plen d, plen := s.plen + 1 }) := by
  unfold execLoad at h
  split at h
  · next hp => exact .inl ⟨hp, next_inj h⟩
  · next hp =>
    have hp := not_not.1 hp
    split at h
    · next hc => exact .inr (.inl ⟨hp, hc, next_inj h⟩)
    · obtain ⟨hc, h⟩ := memWrite_next h
      exact .inr (.inr ⟨hp, hc, next_inj h⟩)

/-- START is refused, raises EmptySourceError or AllocationError, or starts the run (R206). -/
theorem execStart_next (h : execStart s = .next t) :
    (s.phase ≠ phIdle ∧ t = s.refuse) ∨
      (s.phase = phIdle ∧ s.plen = 0 ∧ t = (s.raise .emptySource phIdle).accept) ∨
      (s.phase = phIdle ∧ s.plen ≠ 0 ∧ s.cfg.bitsCap < 8 * s.plen ∧ t = (s.raise .allocation phPack).accept) ∨
      (s.phase = phIdle ∧ s.plen ≠ 0 ∧ 8 * s.plen ≤ s.cfg.bitsCap ∧
        t = State.accept (State.goto phPack { s with nbits := 0 })) := by
  unfold execStart at h
  split at h
  · next hp => exact .inl ⟨hp, next_inj h⟩
  · next hp =>
    have hp := not_not.1 hp
    split at h
    · next hz => exact .inr (.inl ⟨hp, hz, next_inj h⟩)
    · next hz =>
      split at h
      · next hc => exact .inr (.inr (.inl ⟨hp, hz, hc, next_inj h⟩))
      · next hc => exact .inr (.inr (.inr ⟨hp, hz, by omega, next_inj h⟩))

/-- RD only answers (R207). -/
theorem execRd_next {r : RegNum} (h : execRd r s = .next t) :
    (∃ n, statusValue r s = some n ∧ t = s.answerValue n) ∨ (statusValue r s = none ∧ t = s.refuse) := by
  unfold execRd at h
  split at h
  · next n hn => exact .inl ⟨n, hn, next_inj h⟩
  · next hn => exact .inr ⟨hn, next_inj h⟩

theorem execRst_next (h : execRst s = .next t) : t = s.resetBlock.accept := next_inj h

end Sys2Proof.Machine
end

