-- ==== Sys2Proof/Laws/Operands.lean ====
section
/-! SUPPORT. One lemma for each pure function, saying what it computes. -/

namespace Sys2Proof.Machine

/-! ## BitPacker -/

@[simp] theorem byteBits_length (b : Byte) : (byteBits b).length = 8 := rfl

theorem byteBits_getElem? (b : Byte) {k : Nat} (h : k < 8) : (byteBits b)[k]? = some (bitOf b (7 - k)) := by
  interval_cases k <;> rfl

@[simp] theorem pack_nil : pack [] = [] := rfl

@[simp] theorem pack_cons (b : Byte) (p : List Byte) : pack (b :: p) = byteBits b ++ pack p := by
  simp [pack]

@[simp] theorem pack_length (p : List Byte) : (pack p).length = 8 * p.length := by
  induction p with
  | nil => rfl
  | cons b p ih => simp [ih]; omega

theorem pack_getElem? (p : List Byte) {i : Nat} (h : i < 8 * p.length) :
    (pack p)[i]? = (p[i / 8]?).map (fun b => bitOf b (7 - i % 8)) := by
  induction p generalizing i with
  | nil => simp at h
  | cons b p ih =>
    rw [pack_cons]
    by_cases hi : i < 8
    · rw [List.getElem?_append_left (by simpa using hi), byteBits_getElem? b hi]
      have h8 : i / 8 = 0 := by omega
      have hm : i % 8 = i := by omega
      simp [h8, hm]
    · rw [List.getElem?_append_right (by simpa using Nat.le_of_not_lt hi), byteBits_length,
        ih (by simp only [List.length_cons] at h; omega)]
      have h8 : i / 8 = (i - 8) / 8 + 1 := by omega
      have hm : (i - 8) % 8 = i % 8 := by omega
      simp [h8, hm]

/-! ## ParityEncoder -/

theorem symbol_toNat (b : Bit) (c : Byte) : (symbol b c).toNat = adjust b.toNat c.toNat := by
  have := c.isLt
  unfold symbol adjust
  split <;> simp <;> omega

theorem encodeBits_length (bits : List Bit) (draws : List Byte) :
    (encodeBits bits draws).length = min bits.length draws.length := by
  simp [encodeBits]

/-- One more draw encodes one more bit. -/
theorem encodeBits_append (bits : List Bit) (draws : List Byte) (c : Byte) {b : Bit}
    (h : bits[draws.length]? = some b) :
    encodeBits bits (draws ++ [c]) = encodeBits bits draws ++ [symbol b c] := by
  induction bits generalizing draws with
  | nil => simp at h
  | cons a bits ih =>
    cases draws with
    | nil => simp at h; subst h; simp [encodeBits]
    | cons d draws =>
      have := ih draws (by simpa using h)
      simpa [encodeBits] using this

/-! ## RasterLayout -/

theorem csqrtFrom_spec (n : Nat) :
    ∀ fuel w, n ≤ w + fuel → (∀ v, v < w → v * v < n) →
      n ≤ csqrtFrom fuel w n * csqrtFrom fuel w n ∧ ∀ v, v < csqrtFrom fuel w n → v * v < n
  | 0, w, hf, hb => by
    refine ⟨?_, hb⟩
    show n ≤ w * w
    nlinarith
  | fuel + 1, w, hf, hb => by
    unfold csqrtFrom
    split
    · next h =>
      refine csqrtFrom_spec n fuel (w + 1) (by omega) fun v hv => ?_
      rcases Nat.lt_succ_iff_lt_or_eq.1 hv with h' | h'
      · exact hb v h'
      · exact h' ▸ h
    · next h => exact ⟨Nat.le_of_not_lt h, hb⟩

/-- The square of `csqrt n` reaches `n` (R165). -/
theorem csqrt_sq_ge (n : Nat) : n ≤ csqrt n * csqrt n :=
  (csqrtFrom_spec n n 0 (by omega) (by omega)).1

/-- No smaller number's square reaches `n` (R165). -/
theorem csqrt_least {n v : Nat} (h : v < csqrt n) : v * v < n :=
  (csqrtFrom_spec n n 0 (by omega) (by omega)).2 v h

theorem csqrt_pos {n : Nat} (h : 1 ≤ n) : 1 ≤ csqrt n := by
  by_contra hc
  have := csqrt_sq_ge n
  have h0 : csqrt n = 0 := by omega
  rw [h0] at this
  omega

theorem ceilDiv_mul_ge (n : Nat) {w : Nat} (h : 1 ≤ w) : n ≤ w * ceilDiv n w := by
  unfold ceilDiv
  have h1 := Nat.div_add_mod (n + w - 1) w
  have h2 := Nat.mod_lt (n + w - 1) (by omega : w > 0)
  omega

theorem ceilDiv_mul_lt {n w : Nat} (h : 1 ≤ w) (hn : 1 ≤ n) : w * ceilDiv n w < n + w := by
  unfold ceilDiv
  have h1 := Nat.div_add_mod (n + w - 1) w
  omega

/-! ## RasterSerializer -/

theorem decFrom_length (fuel n : Nat) : (decFrom fuel n).length = ndFrom fuel n := by
  induction fuel generalizing n with
  | zero => rfl
  | succ fuel ih =>
    unfold decFrom ndFrom
    split
    · rfl
    · simp [ih]; omega

@[simp] theorem dec_length (n : Nat) : (dec n).length = nd n := decFrom_length n n

@[simp] theorem layoutCells_nil : layoutCells [] = [] := by decide

theorem layoutCells_getElem?_data {ints : List Intensity} {i : Nat} (h : i < ints.length) :
    (layoutCells ints)[i]? = (ints[i]?).map cellOf := by
  rw [layoutCells, List.getElem?_append_left (by simpa using h), List.getElem?_map]

theorem layoutCells_getElem?_pad {ints : List Intensity} {i : Nat} (h : ints.length ≤ i) (hc : i < cells ints.length) :
    (layoutCells ints)[i]? = some Config.sentinel := by
  rw [layoutCells, List.getElem?_append_right (by simpa using h), List.length_map,
    List.getElem?_replicate_of_lt (by omega)]

end Sys2Proof.Machine
end

