-- ==== Sys2Proof/Laws/PerInstr.lean ====
section
/-! SUPPORT. Facts about each operation as syntax, one lemma per constructor. -/

namespace Sys2Proof.Laws

/-- The operation's selector decodes to it, and has every ignored bit 0 (R102, R105). -/
def RoundTrip.Statement (i : Instr) : Prop := decode (encode i) = .ok i ∧ (encode i).canonical = encode i

theorem RoundTrip.packBit : RoundTrip.Statement .packBit := by unfold RoundTrip.Statement; decide

theorem RoundTrip.packEnd : RoundTrip.Statement .packEnd := by unfold RoundTrip.Statement; decide

theorem RoundTrip.encSym : RoundTrip.Statement .encSym := by unfold RoundTrip.Statement; decide

theorem RoundTrip.encEnd : RoundTrip.Statement .encEnd := by unfold RoundTrip.Statement; decide

theorem RoundTrip.layDim : RoundTrip.Statement .layDim := by unfold RoundTrip.Statement; decide

theorem RoundTrip.layCell : RoundTrip.Statement .layCell := by unfold RoundTrip.Statement; decide

theorem RoundTrip.layEnd : RoundTrip.Statement .layEnd := by unfold RoundTrip.Statement; decide

theorem RoundTrip.serHdr : RoundTrip.Statement .serHdr := by unfold RoundTrip.Statement; decide

theorem RoundTrip.serHend : RoundTrip.Statement .serHend := by unfold RoundTrip.Statement; decide

theorem RoundTrip.serPix : RoundTrip.Statement .serPix := by unfold RoundTrip.Statement; decide

theorem RoundTrip.serEnd : RoundTrip.Statement .serEnd := by unfold RoundTrip.Statement; decide

theorem RoundTrip.nop : RoundTrip.Statement .nop := by unfold RoundTrip.Statement; decide

theorem RoundTrip.load (d : Byte) : RoundTrip.Statement (.load d) := by
  unfold RoundTrip.Statement; revert d; decide +kernel

theorem RoundTrip.start : RoundTrip.Statement .start := by unfold RoundTrip.Statement; decide

theorem RoundTrip.rd (r : RegNum) : RoundTrip.Statement (.rd r) := ⟨rfl, rfl⟩

theorem RoundTrip.rst : RoundTrip.Statement .rst := by unfold RoundTrip.Statement; decide

end Sys2Proof.Laws
end

