-- ==== Sys2Proof/Laws/Step.lean ====
section
/-! SUPPORT. What a step can be: an operation on the state whose turn is taken, or a turn that picks none. -/

namespace Sys2Proof.Machine

/-- A step whose selector decodes runs the operation. -/
theorem step_of_ok {s : State} {i : Instr} (h : decode (nextSelector s) = .ok i) : step s = exec i (takeTurn s) := by
  simp [step, h]

/-- A step whose selector picks nothing. -/
theorem step_of_error {s : State} {e : DecodeError} (h : decode (nextSelector s) = .error e) :
    step s = noOperation e (takeTurn s) := by
  simp [step, h]

theorem noOperation_next {e : DecodeError} {s t : State} (h : noOperation e s = .next t) :
    (e = .noMicroOperation ∧ t = s) ∨ (e = .reservedCommand ∧ t = s.refuse) ∨ (e = .resetNotAsserted ∧ t = s) := by
  cases e with
  | noMicroOperation => exact .inl ⟨rfl, next_inj h⟩
  | reservedPhase => cases h
  | reservedCommand => exact .inr (.inl ⟨rfl, next_inj h⟩)
  | resetNotAsserted => exact .inr (.inr ⟨rfl, next_inj h⟩)

/-- A step that answers a next state runs an operation or picks none. -/
theorem step_next {s t : State} (h : step s = .next t) :
    (∃ i, decode (nextSelector s) = .ok i ∧ exec i (takeTurn s) = .next t) ∨
      (∃ e, decode (nextSelector s) = .error e ∧ noOperation e (takeTurn s) = .next t) := by
  unfold step at h
  split at h
  · next i hi => exact .inl ⟨i, hi, h⟩
  · next e he => exact .inr ⟨e, he, h⟩

/-- The turn is the sequencer's: the host issues no transaction. -/
def seqTurn (s : State) : Prop := s.host = [] ∨ ∃ rest, s.host = .sequencer :: rest

theorem nextSelector_of_seqTurn {s : State} (h : seqTurn s) : nextSelector s = seqSelector s := by
  obtain h | ⟨rest, h⟩ := h <;> simp [nextSelector, h]

/-- What the next selector is, by the host's turn. -/
theorem nextSelector_cases (s : State) :
    (seqTurn s ∧ nextSelector s = seqSelector s) ∨ (∃ w rest, s.host = .cmd w :: rest ∧ nextSelector s = .cmd w) ∨
      (∃ r rest, s.host = .rd r :: rest ∧ nextSelector s = .rd r) ∨
      (∃ rest, s.host = .rst :: rest ∧ nextSelector s = .rst 1) := by
  unfold nextSelector seqTurn
  cases hh : s.host with
  | nil => simp
  | cons t rest => cases t <;> simp

/-- The sequencer's dispatch as a table (R103, R121). -/
theorem decode_seqWord (p : PhaseCode) (e : Bool) :
    decode (.seq (seqWord p e)) =
      if p = phPack then .ok (if e then .packEnd else .packBit)
      else if p = phEncode then .ok (if e then .encEnd else .encSym)
      else if p = phDim then .ok .layDim
      else if p = phFill then .ok (if e then .layEnd else .layCell)
      else if p = phHeader then .ok (if e then .serHend else .serHdr)
      else if p = phBody then .ok (if e then .serEnd else .serPix)
      else if p = phIdle ∨ p = phDone ∨ p = phError then .error .noMicroOperation
      else .error .reservedPhase := by
  revert p e; decide

theorem atEnd_iff (s : State) : atEnd s = true ↔ limit s ≤ s.idx := by simp [atEnd]

theorem atEnd_false_iff (s : State) : atEnd s = false ↔ s.idx < limit s := by simp [atEnd]

theorem limit_pack {s : State} (h : s.phase = phPack) : limit s = 8 * s.plen := by simp [limit, h]

theorem limit_encode {s : State} (h : s.phase = phEncode) : limit s = s.nbits := by
  rw [limit, if_neg (by rw [h]; decide), if_pos h]

theorem limit_fill {s : State} (h : s.phase = phFill) : limit s = s.w * s.h := by
  rw [limit, if_neg (by rw [h]; decide), if_neg (by rw [h]; decide), if_pos h]

theorem limit_header {s : State} (h : s.phase = phHeader) : limit s = hlen s.w s.h := by
  rw [limit, if_neg (by rw [h]; decide), if_neg (by rw [h]; decide), if_neg (by rw [h]; decide), if_pos h]

theorem limit_body {s : State} (h : s.phase = phBody) : limit s = s.w * s.h := by
  rw [limit, if_neg (by rw [h]; decide), if_neg (by rw [h]; decide), if_neg (by rw [h]; decide),
    if_neg (by rw [h]; decide), if_pos h]

end Sys2Proof.Machine
end

