-- ==== Sys2Proof/Tests/Slice0.lean ====
section
/-! SUPPORT. Small tests, each from an example or a table of spec/, and for every statement with hypotheses a witness that
meets them. -/

namespace Sys2Proof.Tests

open Sys2Proof.Machine

/-! ## Helpers -/

/-- Small capacities: 4 bytes, 32 bits, 32 intensities, 36 cells. -/
def small : Config.Params := ⟨3, 32, 32, 36⟩

/-- Right after reset, with the small capacities. -/
def fresh : State := State.resetWith small

/-- A fresh machine in a phase, at an index. -/
def at' (p : PhaseCode) (i : Nat) : State := { fresh with phase := p, idx := i }

/-- A fresh machine whose host's next turn is `t`. -/
def issuing (t : HostTurn) (s : State) : State := { s with host := [t] }

/-- The buffer whose cells from `k` on are those of the list. -/
def cellsFrom {n : Nat} (k : Nat) : List (BitVec n) → Memory n
  | [] => []
  | v :: rest => (k, v) :: cellsFrom (k + 1) rest

/-- Whether an outcome is a next state with a property. -/
def nextSat (r : Result) (p : State → Bool) : Bool :=
  match r with
  | .next t => p t
  | .fault _ => false
  | .refused _ => false

theorem exists_of_nextSat {r : Result} {p : State → Bool} (h : nextSat r p = true) : ∃ t, r = .next t ∧ p t = true := by
  cases r with
  | next t => exact ⟨t, rfl, h⟩
  | fault f => cases h
  | refused f => cases h

theorem cellsFrom_read {n : Nat} (l : List (BitVec n)) (k i : Nat) :
    Memory.read (cellsFrom k l) i = if k ≤ i then l[i - k]? else none := by
  induction l generalizing k with
  | nil => simp [cellsFrom]
  | cons v rest ih =>
    rw [cellsFrom, Memory.read_cons, ih]
    by_cases h : i = k
    · simp [h]
    · by_cases h' : k ≤ i
      · have e : i - k = (i - (k + 1)) + 1 := by omega
        rw [if_neg h, if_pos h', if_pos (by omega), e, List.getElem?_cons_succ]
      · rw [if_neg h, if_neg h', if_neg (by omega)]

theorem cellsFrom_written {n : Nat} (l : List (BitVec n)) (i : Nat) :
    (Memory.read (cellsFrom 0 l) i).isSome = true ↔ i < l.length := by
  simp [cellsFrom_read]

/-- Eight draws, those of test vector V2. -/
def eightDraws : List Byte := [17, 100, 3, 254, 1, 2, 253, 254]

/-- Their intensities for the payload 0x41. -/
def eightInts : List Intensity := [18, 101, 4, 254, 2, 2, 254, 255]

/-- The cells of their raster. -/
def nineCells : List Byte := [18, 101, 4, 254, 2, 2, 254, 255, 0]

/-- A machine that has laid the payload 0x41 out as a raster, in a later phase. -/
def laid (p : PhaseCode) (i : Nat) (out : List Byte) : State :=
  { at' p i with
    plen := 1, pay := cellsFrom 0 [0x41], nbits := 8, bits := cellsFrom 0 (pack [0x41]), nint := 8,
    int := cellsFrom 0 eightInts, w := 3, h := 3, grid := cellsFrom 0 nineCells, drawn := eightDraws,
    asked := List.replicate 8 ⟨1, 254⟩, out := out,
    outcnt := out.length }

/-- The frame of that raster. -/
def frame41 : List Byte := header 3 3 ++ nineCells

/-! ## Well-formedness -/

theorem test_ill_formed_register_refused :
    (Instr.rd 10).wellFormed = false ∧ (Instr.rd 15).wellFormed = false := by decide

theorem test_well_formed_at_the_edge :
    (Instr.rd 9).wellFormed = true ∧ (Instr.rd 0).wellFormed = true ∧ (Instr.load 0xFF).wellFormed = true := by decide

/-! ## Decoding: the words of R103, R105, R106 and R101, bit by bit -/

theorem test_decode_packer :
    decode (.seq 0b00010) = .ok .packBit ∧ decode (.seq 0b00011) = .ok .packEnd := by decide

theorem test_decode_encoder :
    decode (.seq 0b00100) = .ok .encSym ∧ decode (.seq 0b00101) = .ok .encEnd := by decide

theorem test_decode_layout :
    decode (.seq 0b00110) = .ok .layDim ∧ decode (.seq 0b00111) = .ok .layDim ∧
      decode (.seq 0b01000) = .ok .layCell ∧ decode (.seq 0b01001) = .ok .layEnd := by decide

theorem test_decode_serializer :
    decode (.seq 0b01010) = .ok .serHdr ∧ decode (.seq 0b01011) = .ok .serHend ∧
      decode (.seq 0b01100) = .ok .serPix ∧ decode (.seq 0b01101) = .ok .serEnd := by decide

theorem test_decode_no_operation :
    decode (.seq 0b00000) = .error .noMicroOperation ∧ decode (.seq 0b01111) = .error .noMicroOperation ∧
      decode (.seq 0b10001) = .error .noMicroOperation ∧ decode (.seq 0b10010) = .error .reservedPhase ∧
      decode (.seq 0b11111) = .error .reservedPhase := by decide

theorem test_decode_commands :
    decode (.cmd 0b0011111111) = .ok .nop ∧ decode (.cmd 0b0101000001) = .ok (.load 0x41) ∧
      decode (.cmd 0b1000000001) = .ok .start ∧ decode (.cmd 0b1100000000) = .error .reservedCommand := by decide

theorem test_decode_read_and_reset :
    decode (.rd 0b1001) = .ok (.rd 9) ∧ decode (.rst 0b1) = .ok .rst ∧
      decode (.rst 0b0) = .error .resetNotAsserted := by decide

/-- Words of the opcode table, numbered as it numbers them. -/
theorem test_table_words :
    decodeTableWord 8 0x02 = some .packBit ∧ decodeTableWord 8 0x0D = some .serEnd ∧
      decodeTableWord 16 0x141 = some (.load 0x41) ∧ decodeTableWord 16 0x300 = none ∧
      decodeTableWord 8 0x00 = some (.rd 0) ∧ decodeTableWord 8 0x01 = some .rst ∧
      decodeTableWord 4 0x9 = some (.rd 9) := by decide

/-- The placed word is what the next step performs, at reset with the capacities as built. -/
theorem test_placed_words_step :
    nextSat (step (State.reset.withFetchWord 8 0x04)) (fun t => decide (t.nint = 1 ∧ t.drawn = [1])) = true ∧
      nextSat (step (State.reset.withFetchWord 8 0x09)) (fun t => decide (t.phase = phHeader)) = true ∧
      nextSat (step (State.reset.withFetchWord 16 0x141)) (fun t => decide (t.plen = 1)) = true := by decide

/-! ## The pure functions: S1 to S3 and V1 to V6 -/

theorem test_pack : pack [0x41] = [0, 1, 0, 0, 0, 0, 0, 1] ∧ pack [0x80] = [1, 0, 0, 0, 0, 0, 0, 0] ∧
    pack [0x48, 0x69] = [0, 1, 0, 0, 1, 0, 0, 0, 0, 1, 1, 0, 1, 0, 0, 1] := by decide

theorem test_encode : encodeBits [0, 1, 0, 0, 0, 0, 0, 1] eightDraws = eightInts := by decide

theorem test_dims : dims 10 = (4, 3) ∧ dims 2 = (2, 1) ∧ dims 7 = (3, 3) ∧ dims 40 = (7, 6) ∧ dims 81 = (9, 9) := by
  decide

theorem test_serialize : serialize ⟨2, 1, [200, 0]⟩ =
    [0x50, 0x35, 0x0A, 0x32, 0x20, 0x31, 0x0A, 0x32, 0x35, 0x35, 0x0A, 0xC8, 0x00] := by decide

theorem test_dec : dec 4 = [0x34] ∧ dec 10 = [0x31, 0x30] ∧ dec 725 = [0x37, 0x32, 0x35] := by decide

theorem test_clamp : cellOf 256 = 255 ∧ cellOf 0 = 0 ∧ cellOf 255 = 255 ∧ clamp (-5) = 0 := by decide

theorem test_frame : frame [0x41] eightDraws = .ok frame41 := by decide

/-! ## One step of each operation: the worked examples of its rule -/

/-- R143. -/
theorem test_packBit : nextSat (exec .packBit { at' phPack 1 with plen := 1, pay := cellsFrom 0 [0x41] })
    (fun t => decide (Memory.read t.bits 1 = some 1 ∧ t.nbits = 2 ∧ t.idx = 2)) = true := by decide

/-- V1: at IDX 15 the bit is bit 0 of the second byte. -/
theorem test_packBit_second_byte :
    nextSat (exec .packBit { at' phPack 15 with plen := 2, pay := cellsFrom 0 [0x48, 0x69] })
      (fun t => decide (Memory.read t.bits 15 = some 1)) = true := by decide

/-- R144. -/
theorem test_packEnd : nextSat (exec .packEnd { at' phPack 8 with plen := 1, nbits := 8 })
    (fun t => decide (t.phase = phEncode ∧ t.idx = 0 ∧ t.nint = 0)) = true := by decide

/-- R144 and R221: INT too small for one cell. -/
theorem test_packEnd_raises : nextSat (exec .packEnd { at' phPack 33 with nbits := 33 })
    (fun t => decide (t.phase = phError ∧ t.err = 2 ∧ t.errStage = 2 ∧ t.idx = 33)) = true := by decide

/-- R156. -/
theorem test_encSym : nextSat (exec .encSym { at' phEncode 3 with bits := [(3, 0)], draws := [253] })
    (fun t => decide (Memory.read t.int 3 = some 254 ∧ t.nint = 4 ∧ t.idx = 4 ∧ t.drawn = [253] ∧ t.asked = [⟨1, 254⟩])) = true := by
  decide

/-- R153: a draw out of contract is no error, and 256 does not wrap. -/
theorem test_encSym_out_of_contract : nextSat (exec .encSym { at' phEncode 0 with bits := [(0, 0)], draws := [255] })
    (fun t => decide (Memory.read t.int 0 = some 256 ∧ t.err = 0)) = true := by decide

/-- R157. -/
theorem test_encEnd : nextSat (exec .encEnd { at' phEncode 8 with nbits := 8, nint := 8 })
    (fun t => decide (t.phase = phDim ∧ t.idx = 0)) = true := by decide

/-- R176, with GRID exactly large enough. -/
theorem test_layDim : nextSat (exec .layDim { at' phDim 0 with nint := 40, cfg := ⟨4, 40, 40, 42⟩ })
    (fun t => decide (t.w = 7 ∧ t.h = 6 ∧ t.phase = phFill)) = true := by decide

/-- R176: W and H are written though GRID is one cell too small. -/
theorem test_layDim_raises : nextSat (exec .layDim { at' phDim 0 with nint := 40, cfg := ⟨4, 40, 40, 41⟩ })
    (fun t => decide (t.w = 7 ∧ t.h = 6 ∧ t.phase = phError ∧ t.err = 2 ∧ t.errStage = 3)) = true := by decide

/-- R178. -/
theorem test_layCell_pads : nextSat (exec .layCell { at' phFill 8 with nint := 8, w := 3, h := 3 })
    (fun t => decide (Memory.read t.grid 8 = some 0 ∧ t.idx = 9)) = true := by decide

/-- R178: 256 is stored as 255. -/
theorem test_layCell_clamps : nextSat (exec .layCell { at' phFill 0 with nint := 1, w := 1, h := 1, int := [(0, 256)] })
    (fun t => decide (Memory.read t.grid 0 = some 255)) = true := by decide

/-- R179. -/
theorem test_layEnd : nextSat (exec .layEnd (laid phFill 9 [])) (fun t => decide (t.phase = phHeader ∧ t.idx = 0)) = true := by
  decide

/-- R189. -/
theorem test_serHdr : nextSat (exec .serHdr { at' phHeader 3 with w := 3, h := 3, outcnt := 3, sink := [.accept] })
    (fun t => decide (t.out = [0x33] ∧ t.outcnt = 4 ∧ t.idx = 4)) = true := by decide

/-- R189: a refused byte. -/
theorem test_serHdr_raises : nextSat (exec .serHdr { at' phHeader 0 with w := 3, h := 3, sink := [.fail] })
    (fun t => decide (t.out = [] ∧ t.outcnt = 0 ∧ t.err = 4 ∧ t.errStage = 5 ∧ t.idx = 0)) = true := by decide

/-- R190. -/
theorem test_serHend : nextSat (exec .serHend (laid phHeader 11 (header 3 3)))
    (fun t => decide (t.phase = phBody ∧ t.idx = 0 ∧ t.outcnt = 11)) = true := by decide

/-- R192. -/
theorem test_serPix : nextSat (exec .serPix { laid phBody 0 (header 3 3) with sink := [.accept] })
    (fun t => decide (t.out = header 3 3 ++ [0x12] ∧ t.outcnt = 12 ∧ t.idx = 1)) = true := by decide

/-- R192: a refused pixel. -/
theorem test_serPix_raises : nextSat (exec .serPix { laid phBody 4 (header 3 3) with sink := [.fail] })
    (fun t => decide (t.err = 4 ∧ t.errStage = 6 ∧ t.idx = 4 ∧ t.outcnt = 11)) = true := by decide

/-- R194. -/
theorem test_serEnd : nextSat (exec .serEnd (laid phBody 9 frame41))
    (fun t => decide (t.phase = phDone ∧ t.idx = 9 ∧ t.doneO = true)) = true := by decide

/-- R204. -/
theorem test_nop : nextSat (step (issuing (.cmd 0x0FF) (laid phBody 0 [])))
    (fun t => decide (t.phase = phBody ∧ t.idx = 0 ∧ t.reply = some .accepted)) = true := by decide

/-- R205. -/
theorem test_load : nextSat (step (issuing (.cmd 0x141) fresh))
    (fun t => decide (Memory.read t.pay 0 = some 0x41 ∧ t.plen = 1 ∧ t.reply = some .accepted)) = true := by decide

/-- R205: the fifth byte of a payload of at most four. -/
theorem test_load_raises : nextSat (step (issuing (.cmd 0x141) { fresh with plen := 4 }))
    (fun t => decide (t.phase = phError ∧ t.err = 2 ∧ t.errStage = 0 ∧ t.plen = 4)) = true := by decide

/-- R206. -/
theorem test_start : nextSat (step (issuing (.cmd 0x200) { fresh with plen := 1 }))
    (fun t => decide (t.phase = phPack ∧ t.idx = 0 ∧ t.nbits = 0 ∧ t.busyO = true)) = true := by decide

/-- P3 of `95_test_vectors.md`: START with no payload. -/
theorem test_start_raises : nextSat (step (issuing (.cmd 0x200) fresh))
    (fun t => decide (t.phase = phError ∧ t.err = 1 ∧ t.errStage = 0)) = true := by decide

/-- R207. -/
theorem test_rd : nextSat (step (issuing (.rd 9) (laid phDone 9 frame41)))
    (fun t => decide (t.reply = some (.value 20))) = true := by decide

/-- R207: a reserved number returns no value. -/
theorem test_rd_reserved : nextSat (step (issuing (.rd 10) fresh)) (fun t => decide (t.reply = some .refused)) = true := by
  decide

/-- R250. -/
theorem test_rst : nextSat (step (issuing .rst (laid phDone 9 frame41)))
    (fun t => decide (t.phase = 0 ∧ t.plen = 0 ∧ t.w = 0 ∧ t.outcnt = 0 ∧ t.out = [] ∧ Memory.read t.pay 0 = none)) = true := by
  decide

/-! ## Witnesses: the hypotheses of the statements can be met -/

theorem witness_DecodeEncodeAgree : decode (.seq 0b00111) = .ok .layDim ∧ decode (.cmd 0x2FF) = .ok .start := by decide

theorem witness_CommandWordTable : (0b1111111111 : CmdWord).toNat = (0b11 : BitVec 2).toNat * 256 + (0xFF : Byte).toNat := by
  decide

theorem witness_StepRunsDecodedOperation :
    decode (nextSelector (issuing (.cmd 0x000) fresh)) = .ok .nop ∧ decode (nextSelector (at' phDim 0)) = .ok .layDim := by
  decide

/-- Every phase, on the sequencer's turn, left to it or empty. -/
theorem witness_DispatchByPhaseAndIndex (p : PhaseCode) :
    ((at' p 0).host = [] ∧ (at' p 0).phase = p) ∧ (issuing .sequencer (at' p 0)).host.head? = some .sequencer :=
  ⟨⟨rfl, rfl⟩, rfl⟩

theorem witness_QuiescentTurnChangesNothing :
    (at' phIdle 0).host = [] ∧ (at' phIdle 0).phase = 0 ∧ (at' phDone 0).phase = 7 ∧ (at' phError 0).phase = 8 ∧
      9 ≤ (at' 9 0).phase.toNat ∧ (at' 9 0).host = [] := by decide

theorem witness_RefusalChangesNothing :
    (at' phPack 0).phase ≠ 0 ∧ (issuing (.cmd 0x300) fresh).host = .cmd 0x300 :: [] ∧ 0x300 ≤ (0x300 : CmdWord).toNat ∧
      fresh.phase = 0 ∧ (∃ t, exec (.load 0x41) fresh = .next t ∧ decide (t.plen = 1) = true) ∧
      (∃ t, exec .start fresh = .next t ∧ decide (t.phase = phError) = true) :=
  ⟨by decide, rfl, by decide, rfl, exists_of_nextSat (by decide), exists_of_nextSat (by decide)⟩

theorem witness_PackBitWritesOneBit :
    Memory.read (cellsFrom 0 [(0x41 : Byte)]) (7 / 8) = some 0x41 ∧ (at' phPack 7).idx < (at' phPack 7).cfg.bitsCap := by
  decide

theorem witness_PackEndChecksIntCapacity :
    { at' phPack 32 with nbits := 32 }.nbits ≤ small.intCap ∧ { at' phPack 33 with nbits := 33 }.nbits > small.intCap := by
  decide

theorem witness_PackIsRecoverable : ([0x48, 0x69] : List Byte)[15 / 8]? = some 0x69 ∧ ([0x41] : List Byte)[0]? = some 0x41 := by
  decide

/-- Both of the stage's ends: INT large enough, and INT one cell too small. -/
theorem witness_StagePackComputesPack (c : Nat) (hc : c = 8 ∨ c = 7) :
    let s : State := { at' phPack 0 with plen := 1, pay := [(0, 0x41)], cfg := ⟨3, 8, c, 36⟩ }
    s.host = [] ∧ s.phase = 1 ∧ s.idx = 0 ∧ 1 ≤ s.plen ∧ 8 * s.plen ≤ s.cfg.bitsCap ∧
      (∀ j, j < s.plen → (Memory.read s.pay j).isSome = true) ∧ (8 * s.plen ≤ s.cfg.intCap ∨ s.cfg.intCap < 8 * s.plen) := by
  rcases hc with rfl | rfl <;> decide

theorem witness_EncSymTakesOneDraw :
    let s : State := { at' phEncode 3 with bits := [(3, 0)], draws := [253] }
    s.draws = 253 :: [] ∧ Memory.read s.bits s.idx = some 0 ∧ s.idx < s.cfg.intCap := by decide

theorem witness_SymbolKeepsParityAndRange : 1 ≤ (1 : Byte).toNat ∧ (254 : Byte).toNat ≤ 254 := by decide

theorem witness_AdjustmentForEveryDraw : adjust 1 254 = 255 ∧ adjust 0 1 = 2 := by decide

theorem witness_StageEncodeComputesEncode :
    let s : State := { at' phEncode 0 with nbits := 8, bits := cellsFrom 0 (pack [0x41]), draws := eightDraws ++ [9] }
    s.host = [] ∧ s.phase = 2 ∧ s.idx = 0 ∧ 8 ≤ s.nbits ∧ s.nbits ≤ s.cfg.intCap ∧
      (∀ j, j < s.nbits → (Memory.read s.bits j).isSome = true) ∧ s.draws = eightDraws ++ [9] ∧
      eightDraws.length = s.nbits := by decide

theorem witness_CeilingsAreLeast : 10 ≤ 4 * 4 ∧ csqrt 10 = 4 ∧ 10 ≤ 3 * 4 ∧ ceilDiv 10 4 = 3 ∧ csqrt 1 = 1 := by decide

theorem witness_DimensionsAreNearSquare : (1, 1) = dims 1 ∧ (3, 2) = dims 6 ∧ (3, 3) = dims 7 := by decide

theorem witness_CellCountBounds : cells 1 = 1 ∧ cells 6 = 6 ∧ cells 7 = 9 := by decide

theorem witness_DefaultCapacitiesFitEveryPayload :
    (1 ≤ 1 ∧ 1 ≤ (defaultParams 0).payloadCap) ∧ 4 ≤ (defaultParams 3).payloadCap := by decide

theorem witness_ClampOnlyChangesOutOfRange : clamp (-1) = 0 ∧ clamp 256 = 255 ∧ clamp 0 = 0 ∧ clamp 255 = 255 := by decide

/-- Three integers leave one padding cell. -/
theorem witness_LayoutPlacesThenPads :
    ([7, 8, 9] : List Int) ≠ [] ∧ ([7, 8, 9] : List Int)[2]? = some 9 ∧
      (layout [7, 8, 9]).toOption = some ⟨2, 2, [7, 8, 9, 0]⟩ := by decide

theorem eightDraws_inRange : RngInRange eightDraws := by unfold RngInRange; decide

theorem witness_SentinelEndsTheData :
    layout [7, 8, 9] = .ok ⟨2, 2, [7, 8, 9, 0]⟩ ∧ pack [0x41] ≠ [] ∧ eightDraws.length = (pack [0x41]).length ∧
      RngInRange eightDraws :=
  ⟨by decide, by decide, by decide, eightDraws_inRange⟩

theorem witness_LayDimDerivesDimensions :
    fresh.nint = 0 ∧ 1 ≤ 40 ∧ 40 ≤ 7 * 7 ∧ (∀ v, v < 7 → v * v < 40) ∧ 7 * ((40 + 7 - 1) / 7) ≤ 42 ∧
      41 < 7 * ((40 + 7 - 1) / 7) := by decide

theorem witness_LayCellFillsOneCell :
    let s : State := { at' phFill 7 with nint := 8, int := cellsFrom 0 eightInts }
    let u : State := { at' phFill 8 with nint := 8 }
    (s.idx < s.nint ∧ Memory.read s.int s.idx = some 255 ∧ s.idx < s.cfg.gridCap) ∧ u.nint ≤ u.idx ∧ u.idx < u.cfg.gridCap := by
  decide

theorem witness_StageLayoutComputesLayout :
    let s : State := { at' phDim 0 with nint := 8, int := cellsFrom 0 eightInts }
    s.host = [] ∧ s.phase = 3 ∧ 1 ≤ s.nint ∧ cells s.nint ≤ s.cfg.gridCap ∧
      (∀ j, j < s.nint → (Memory.read s.int j).isSome = true) := by decide

theorem witness_DecimalNumerals : nd 1 = 1 ∧ nd 9 = 1 ∧ nd 10 = 2 ∧ nd 99 = 2 ∧ nd 100 = 3 := by decide

theorem witness_HeaderBytes : 0 < nd 7 ∧ 1 < nd 12 := by decide

/-- The last header byte and the first pixel byte, accepted and refused. -/
theorem witness_SerHdrOffersHeaderByte (a : SinkAnswer) :
    let s : State := { laid phHeader 10 [] with sink := [a] }
    s.idx < hlen s.w s.h ∧ s.sink = a :: [] := by cases a <;> decide

theorem witness_SerPixOffersGridCell (a : SinkAnswer) :
    let s : State := { laid phBody 0 [] with sink := [a] }
    Memory.read s.grid s.idx = some 18 ∧ s.sink = a :: [] := by cases a <;> decide

theorem witness_UnansweredPortsWait :
    fresh.draws = [] ∧ fresh.sink = [] ∧ fresh.idx < hlen fresh.w fresh.h ∧
      (Memory.read (laid phBody 0 []).grid (laid phBody 0 []).idx).isSome = true ∧ (laid phBody 0 []).sink = [] := by decide

/-- A raster of one cell, the sink's answers free. -/
theorem witness_StageSerializeSendsFrame (l : List SinkAnswer) :
    let s : State := { at' phHeader 0 with w := 1, h := 1, grid := [(0, 5)], sink := l }
    s.host = [] ∧ s.phase = 5 ∧ s.idx = 0 ∧ s.out = [] ∧ s.outcnt = 0 ∧ 1 ≤ s.w ∧ 1 ≤ s.h ∧
      (∀ j, j < s.w * s.h → (Memory.read s.grid j).isSome = true) ∧
      header 1 1 ++ [5] = header s.w s.h ++ Memory.contents s.grid (s.w * s.h) :=
  ⟨rfl, rfl, rfl, rfl, rfl, le_refl 1, le_refl 1, fun j hj => by
    change j < 1 at hj
    have : j = 0 := by omega
    subst this
    rfl, rfl⟩

/-- The answers of that stage's clauses: all accepted; the last header byte refused; the pixel refused. -/
theorem witness_StageSerializeSendsFrame_answers :
    (header 1 1 ++ [5]).length = 12 ∧ hlen 1 1 = 11 ∧
      List.replicate 12 SinkAnswer.accept ++ [] = List.replicate (header 1 1 ++ [5]).length .accept ++ [] ∧
      10 < 12 ∧ 11 < 12 := by decide

theorem witness_NopIsAcceptedEverywhere : (0x0FF : CmdWord).toNat < 0x100 := by decide

theorem witness_LoadAppendsOneByte :
    (0x1FF : CmdWord).toNat = 0x100 + (0xFF : Byte).toNat ∧ (at' phDone 0).phase ≠ 0 ∧ fresh.phase = 0 ∧
      { fresh with plen := 4 }.plen = small.payloadCap ∧ { fresh with plen := 3 }.plen < small.payloadCap := by decide

theorem witness_StartChecksThenRuns :
    0x200 ≤ (0x2FF : CmdWord).toNat ∧ (0x2FF : CmdWord).toNat < 0x300 ∧ (at' phError 0).phase ≠ 0 ∧ fresh.phase = 0 ∧
      fresh.plen = 0 ∧ 0 < 4 ∧ small.bitsCap < 8 * 5 ∧ 8 * 4 ≤ small.bitsCap := by decide

theorem witness_ExactlyOneStatusHolds : (at' phIdle 0).phase.toNat ≤ 8 ∧ (at' phError 0).phase.toNat ≤ 8 := by decide

theorem witness_RunEndsAreQuiescent :
    (at' phError 0).failed = true ∧ (at' phError 0).phase.toNat ≤ 8 ∧ (at' phIdle 0).phase.toNat ≤ 8 := by decide

theorem witness_PhaseChangesAreTabled : ∃ t, step (issuing (.cmd 0x200) fresh) = .next t ∧
    decide (t.phase ≠ (issuing (.cmd 0x200) fresh).phase) = true := exists_of_nextSat (by decide)

theorem witness_PhaseNeverGoesBack : (∃ t, step (at' phDim 0) = .next t ∧ decide (t.phase = phError) = true) ∧
    decode (nextSelector (at' phDim 0)) ≠ .ok .rst := ⟨exists_of_nextSat (by decide), by decide⟩

theorem witness_DoneAndErrorAreAbsorbing (p : PhaseCode) (hp : p = 7 ∨ p = 8) :
    let s : State := issuing (.cmd 0x141) (at' p 0)
    (s.phase = 7 ∨ s.phase = 8) ∧ (∃ t, step s = .next t ∧ decide (t.reply = some .refused) = true) ∧
      decode (nextSelector s) ≠ .ok .rst := by
  rcases hp with rfl | rfl <;> exact ⟨by decide, exists_of_nextSat (by decide), by decide⟩

theorem witness_PayloadIsImmutableInRun :
    let s : State := issuing (.cmd 0x141) (at' phPack 0)
    s.phase ≠ 0 ∧ (∃ t, step s = .next t ∧ decide (t.reply = some .refused) = true) ∧ decode (nextSelector s) ≠ .ok .rst :=
  ⟨by decide, exists_of_nextSat (by decide), by decide⟩

theorem witness_RegistersHaveTheirWriters :
    (∃ t, exec .layDim { at' phDim 0 with nint := 8 } = .next t ∧ decide (t.w ≠ 0) = true) ∧ Instr.layDim ≠ .rst :=
  ⟨exists_of_nextSat (by decide), by decide⟩

theorem witness_ErrorsArePreciseAndTabled :
    (∃ t, exec .layDim { at' phDim 0 with nint := 37 } = .next t ∧ decide (t.phase = 8 ∧ t.err = 2) = true) ∧
      (∃ t, exec .serPix { laid phBody 0 [] with sink := [.fail] } = .next t ∧ decide (t.phase = 8 ∧ t.err = 4) = true) :=
  ⟨exists_of_nextSat (by decide), exists_of_nextSat (by decide)⟩

theorem witness_PortsAreUsedOncePerElement :
    (∃ t, exec .encSym { at' phEncode 0 with bits := [(0, 1)], draws := [2] } = .next t ∧
      decide (t.drawn = [2]) = true) ∧ Instr.encSym ≠ .rst := ⟨exists_of_nextSat (by decide), by decide⟩

theorem witness_BuffersStayCanonical :
    let s : State := issuing (.cmd 0x141) fresh
    Memory.wf s.pay = true ∧ Memory.wf s.bits = true ∧ Memory.wf s.int = true ∧ Memory.wf s.grid = true ∧
      ∃ t, step s = .next t ∧ decide (t.plen = 1) = true :=
  ⟨rfl, rfl, rfl, rfl, exists_of_nextSat (by decide)⟩

/-! ## Witnesses of the invariants -/

/-- The laid-out machine meets the invariants at DONE, in ERROR after a refused header byte, and before SER.END. -/
theorem laid_inv (s : State)
    (hs : s = laid phDone 9 frame41 ∨ s = { laid phError 0 [] with err := 4, errStage := phHeader } ∨
      s = laid phBody 9 frame41) : Inv s := by
  rcases hs with rfl | rfl | rfl
  all_goals
    constructor
    case payWritten => exact cellsFrom_written [0x41]
    case bitsWritten => exact cellsFrom_written (pack [0x41])
    case intWritten => exact cellsFrom_written eightInts
    case gridWritten => exact cellsFrom_written nineCells
    all_goals
      first
      | decide
      | (simp only [State.packed, State.encoded, State.dimensioned, State.laidOut, State.sinkFailed]; decide)

/-- A machine fresh from reset meets the invariants in ERROR after START with no payload, and after a refused LOAD. -/
theorem early_inv (e : ErrCode) (he : e = 1 ∨ e = 2) : Inv { at' phError 0 with err := e } := by
  rcases he with rfl | rfl
  all_goals
    constructor
    case payWritten => exact cellsFrom_written []
    case bitsWritten => exact cellsFrom_written []
    case intWritten => exact cellsFrom_written []
    case gridWritten => exact cellsFrom_written []
    all_goals
      first
      | decide
      | (simp only [State.packed, State.encoded, State.dimensioned, State.laidOut, State.sinkFailed]; decide)

theorem witness_EveryStepKeepsInvariants :
    Inv (laid phBody 9 frame41) ∧ ∃ t, step (laid phBody 9 frame41) = .next t ∧ decide (t.phase = phDone) = true :=
  ⟨laid_inv _ (.inr (.inr rfl)), exists_of_nextSat (by decide)⟩

theorem witness_InvariantsExcludeFaults : Inv (laid phBody 9 frame41) := laid_inv _ (.inr (.inr rfl))

theorem witness_DoneMeansFrameWasSent : Inv (laid phDone 9 frame41) ∧ (laid phDone 9 frame41).phase = 7 :=
  ⟨laid_inv _ (.inl rfl), rfl⟩

/-- One state for each of the errors 1, 2 and 4. -/
theorem witness_EarlyErrorsSendNothing :
    (Inv { at' phError 0 with err := 1 } ∧ Inv { at' phError 0 with err := 2 } ∧ (at' phError 0).phase = 8) ∧
      Inv { laid phError 0 [] with err := 4, errStage := phHeader } :=
  ⟨⟨early_inv 1 (.inl rfl), early_inv 2 (.inr rfl), rfl⟩, laid_inv _ (.inr (.inl rfl))⟩

/-- At DONE and in ERROR, on the sequencer's turn. -/
theorem witness_OnlyResetLowersRegisters :
    let s : State := laid phDone 9 frame41
    let u : State := { laid phError 0 [] with err := 4, errStage := phHeader }
    (Inv s ∧ s.phase = 7 ∧ decode (nextSelector s) ≠ .ok .rst ∧
        ∃ t, step s = .next t ∧ decide (t.phase = phDone) = true) ∧
      Inv u ∧ u.phase = 8 ∧ u.err ≠ 0 ∧ decode (nextSelector u) ≠ .ok .rst ∧
        ∃ t, step u = .next t ∧ decide (t.phase = phError) = true :=
  ⟨⟨laid_inv _ (.inl rfl), rfl, by decide, exists_of_nextSat (by decide)⟩,
    laid_inv _ (.inr (.inl rfl)), rfl, by decide, by decide, exists_of_nextSat (by decide)⟩

/-! ## Witnesses of the whole run -/

theorem witness_WholeRunProducesFrame :
    let s : State := { fresh with
      host := runScript [0x41], draws := eightDraws ++ [], sink := List.replicate (11 + 9) .accept ++ [] }
    ([0x41] : List Byte) ≠ [] ∧ [(0x41 : Byte)].length ≤ s.cfg.payloadCap ∧ 8 * 1 ≤ s.cfg.bitsCap ∧ 8 * 1 ≤ s.cfg.intCap ∧
      cells (8 * 1) ≤ s.cfg.gridCap ∧ eightDraws.length = 8 * 1 ∧ s.host = runScript [0x41] ∧ s.draws = eightDraws ++ [] ∧
      s.sink = List.replicate (hlen (dims (8 * 1)).1 (dims (8 * 1)).2 + cells (8 * 1)) .accept ++ [] ∧
      RngInRange eightDraws :=
  ⟨by decide, by decide, by decide, by decide, by decide, by decide, rfl, rfl, by decide, eightDraws_inRange⟩

theorem witness_FrameCarriesPayload :
    ([0x41] : List Byte) ≠ [] ∧ eightDraws.length = 8 * [(0x41 : Byte)].length ∧ RngInRange eightDraws ∧
      frame [0x41] eightDraws = .ok frame41 := ⟨by decide, by decide, eightDraws_inRange, by decide⟩

end Sys2Proof.Tests
end

section
/-! Proofs of the scope family (`00_scope.md`): what one step is. -/

namespace Sys2Proof.Machine

/-- Every field but the list of turns is kept: `host` is the model's own field (log 1). -/
theorem takeTurn_eq (s : State) : takeTurn s = { s with host := s.host.tail } := rfl

/-- Settles O5: the decoded branch of the step, and the frame of taking a turn. -/
theorem stepRunsDecodedOperation : Obligations.StepRunsDecodedOperation :=
  fun s _ hdec => ⟨step_of_ok hdec, takeTurn_eq s⟩

end Sys2Proof.Machine
end

section
/-! Proofs of the state family (`10_state.md`), part 1: the status outputs and the reset. -/

namespace Sys2Proof.Machine

variable {s : State}

/-! ## The status outputs (R31) -/

theorem State.doneO_iff : s.doneO = true ↔ s.phase = phDone := by simp [State.doneO]

theorem State.errorO_iff : s.errorO = true ↔ s.phase = phError := by simp [State.errorO]

theorem State.busyO_iff : s.busyO = true ↔ 1 ≤ s.phase.toNat ∧ s.phase.toNat ≤ 6 := by simp [State.busyO]

/-- The legal values of PHASE in the four groups that the status outputs tell apart (R21, R31). -/
theorem phase_groups {p : PhaseCode} (h : p.toNat ≤ 8) :
    p = phIdle ∨ (1 ≤ p.toNat ∧ p.toNat ≤ 6) ∨ p = phDone ∨ p = phError := by bv_omega

/-- Settles O40: one case for each group of legal phases. -/
theorem exactlyOneStatusHolds : Obligations.ExactlyOneStatusHolds := by
  intro s
  refine ⟨State.doneO_iff, State.errorO_iff, State.busyO_iff, fun hlegal => ?_⟩
  obtain hidle | hbusy | hdone | herror := phase_groups hlegal
  · simp [State.busyO, State.doneO, State.errorO, hidle]
  · have hne0 : s.phase ≠ 0#4 := by bv_omega
    have hne7 : s.phase ≠ 7#4 := by bv_omega
    have hne8 : s.phase ≠ 8#4 := by bv_omega
    simp [State.busyO, State.doneO, State.errorO, hbusy, hne0, hne7, hne8]
  · simp [State.busyO, State.doneO, State.errorO, hdone]
  · simp [State.busyO, State.doneO, State.errorO, herror]

/-! ## Reset (R45, R250) -/

/-- RST is never refused: it answers the reset block, accepted. -/
theorem exec_rst (s : State) : exec .rst s = .next s.resetBlock.accept := rfl

/-- A second reset finds nothing to clear. -/
theorem State.resetBlock_accept_idem (s : State) :
    s.resetBlock.accept.resetBlock.accept = s.resetBlock.accept := rfl

/-- Settles O38: the fields of the one state that RST answers. -/
theorem resetClearsEverything : Obligations.ResetClearsEverything := by
  refine ⟨by decide, fun s => ⟨s.resetBlock.accept, exec_rst s, ?_⟩⟩
  have hagain : exec .rst s.resetBlock.accept = .next s.resetBlock.accept := by
    rw [exec_rst, State.resetBlock_accept_idem]
  simp [State.doneO, State.errorO, State.busyO, hagain]

end Sys2Proof.Machine
end

section
/-! Proofs of the state family (`10_state.md`), part 2: which operations write which register and buffer (R32). -/

namespace Sys2Proof.Machine

variable {s t : State}

/-- No error of the block has the code 0, which stands for no error (R22). -/
@[simp] theorem ErrKind.code_ne_zero (e : ErrKind) : e.code ≠ 0#3 := by cases e <;> decide

/-- Emit writes nothing but OUT, OUTCNT, IDX and the error registers, and the latter only by raising. -/
theorem emit_writes {b : Byte} {stage : PhaseCode} (h : emit b stage s = .next t) :
    t = { s with phase := t.phase, err := t.err, errStage := t.errStage, idx := t.idx, outcnt := t.outcnt,
                 out := t.out, sink := t.sink } ∧
      (t.err ≠ s.err ∨ t.errStage ≠ s.errStage → t.phase = phError ∧ t.err ≠ 0) := by
  obtain ⟨-, rfl⟩ | ⟨rest, -, rfl⟩ | ⟨rest, -, rfl⟩ := emit_next h
  · exact ⟨rfl, by simp⟩
  · exact ⟨rfl, by simp⟩
  · exact ⟨rfl, by simp⟩

/-- Settles O47: for each operation, the states it can answer, field by field. -/
theorem registersHaveTheirWriters : Obligations.RegistersHaveTheirWriters := by
  intro i s t h hrst
  cases i with
  | packBit => obtain ⟨byt, -, -, rfl⟩ := execPackBit_next h; simp
  | packEnd => obtain ⟨-, rfl⟩ | ⟨-, rfl⟩ := execPackEnd_next h <;> simp
  | encSym => obtain ⟨-, rfl⟩ | ⟨c, rest, b, -, -, -, rfl⟩ := execEncSym_next h <;> simp
  | encEnd => obtain rfl := execEncEnd_next h; simp
  | layDim => obtain ⟨-, rfl⟩ | ⟨-, -, rfl⟩ | ⟨-, -, rfl⟩ := execLayDim_next h <;> simp
  | layCell => obtain ⟨g, -, -, rfl⟩ := execLayCell_next h; simp
  | layEnd => obtain rfl := execLayEnd_next h; simp
  | serHdr =>
    obtain ⟨b, -, h⟩ := execSerHdr_next h
    obtain ⟨hframe, hraise⟩ := emit_writes h
    rw [hframe]
    simpa using hraise
  | serHend => obtain rfl := execSerHend_next h; simp
  | serPix =>
    obtain ⟨b, -, h⟩ := execSerPix_next h
    obtain ⟨hframe, hraise⟩ := emit_writes h
    rw [hframe]
    simpa using hraise
  | serEnd => obtain rfl := execSerEnd_next h; simp
  | nop => obtain rfl := execNop_next h; simp
  | load d => obtain ⟨-, rfl⟩ | ⟨-, -, rfl⟩ | ⟨-, -, rfl⟩ := execLoad_next h <;> simp
  | start => obtain ⟨-, rfl⟩ | ⟨-, -, rfl⟩ | ⟨-, -, -, rfl⟩ | ⟨-, -, -, rfl⟩ := execStart_next h <;> simp
  | rd r => obtain ⟨n, -, rfl⟩ | ⟨-, rfl⟩ := execRd_next h <;> simp
  | rst => exact absurd rfl hrst

end Sys2Proof.Machine
end

section
/-! What the next selector decodes to: the rows of the sequencer's dispatch (R121) and the host's transactions. -/

namespace Sys2Proof.Machine

variable {s : State} {i : Instr} {e : DecodeError}

/-- The dispatch of R121: the micro-operation of each phase, below the phase's limit or at it. -/
inductive Dispatches (s : State) : Instr → Prop where
  | packBit : s.phase = phPack → s.idx < limit s → Dispatches s .packBit
  | packEnd : s.phase = phPack → limit s ≤ s.idx → Dispatches s .packEnd
  | encSym : s.phase = phEncode → s.idx < limit s → Dispatches s .encSym
  | encEnd : s.phase = phEncode → limit s ≤ s.idx → Dispatches s .encEnd
  | layDim : s.phase = phDim → Dispatches s .layDim
  | layCell : s.phase = phFill → s.idx < limit s → Dispatches s .layCell
  | layEnd : s.phase = phFill → limit s ≤ s.idx → Dispatches s .layEnd
  | serHdr : s.phase = phHeader → s.idx < limit s → Dispatches s .serHdr
  | serHend : s.phase = phHeader → limit s ≤ s.idx → Dispatches s .serHend
  | serPix : s.phase = phBody → s.idx < limit s → Dispatches s .serPix
  | serEnd : s.phase = phBody → limit s ≤ s.idx → Dispatches s .serEnd

/-- The sequencer's selector decodes to an operation exactly where the dispatch names it. -/
theorem decode_seqSelector_ok_iff : decode (seqSelector s) = .ok i ↔ Dispatches s i := by
  rw [seqSelector, decode_seqWord]
  constructor
  · intro h
    cases hend : atEnd s with
    | false =>
      have hidx := (atEnd_false_iff s).1 hend
      simp only [hend, Bool.false_eq_true, if_false] at h
      split_ifs at h with hpack hencode hdim hfill hheader hbody hquiet <;> cases h
      · exact .packBit hpack hidx
      · exact .encSym hencode hidx
      · exact .layDim hdim
      · exact .layCell hfill hidx
      · exact .serHdr hheader hidx
      · exact .serPix hbody hidx
    | true =>
      have hidx := (atEnd_iff s).1 hend
      simp only [hend, if_true] at h
      split_ifs at h with hpack hencode hdim hfill hheader hbody hquiet <;> cases h
      · exact .packEnd hpack hidx
      · exact .encEnd hencode hidx
      · exact .layDim hdim
      · exact .layEnd hfill hidx
      · exact .serHend hheader hidx
      · exact .serEnd hbody hidx
  · intro h
    cases h with
    | packBit hp hidx | encSym hp hidx | layCell hp hidx | serHdr hp hidx | serPix hp hidx =>
      simp [hp, (atEnd_false_iff s).2 hidx]
    | packEnd hp hidx | encEnd hp hidx | layEnd hp hidx | serHend hp hidx | serEnd hp hidx =>
      simp [hp, (atEnd_iff s).2 hidx]
    | layDim hp => simp [hp]

/-- The sequencer's selector picks nothing in a quiescent phase or in a reserved one (R121, R108). -/
theorem decode_seqSelector_error (h : decode (seqSelector s) = .error e) :
    (e = .noMicroOperation ∧ (s.phase = phIdle ∨ s.phase = phDone ∨ s.phase = phError)) ∨
      (e = .reservedPhase ∧ 9 ≤ s.phase.toNat) := by
  rw [seqSelector, decode_seqWord] at h
  split_ifs at h with hpack hencode hdim hfill hheader hbody hquiet <;> cases h
  · exact .inl ⟨rfl, hquiet⟩
  · exact .inr ⟨rfl, by bv_omega⟩

/-- A command word is NOP, LOAD or START (R105). -/
theorem decode_cmd_ok {w : CmdWord} (h : decode (.cmd w) = .ok i) : i = .nop ∨ (∃ d, i = .load d) ∨ i = .start := by
  change decodeCmd w = _ at h
  unfold decodeCmd at h
  split at h <;> cases h
  · exact .inl rfl
  · exact .inr (.inl ⟨_, rfl⟩)
  · exact .inr (.inr rfl)

theorem decode_cmd_error {w : CmdWord} (h : decode (.cmd w) = .error e) : e = .reservedCommand := by
  change decodeCmd w = _ at h
  unfold decodeCmd at h
  split at h <;> cases h
  rfl

/-- A step performs what the sequencer's dispatch names, or one of the host's transactions (R78). -/
theorem decode_nextSelector_ok (h : decode (nextSelector s) = .ok i) :
    Dispatches s i ∨ i = .nop ∨ (∃ d, i = .load d) ∨ i = .start ∨ (∃ r, i = .rd r) ∨ i = .rst := by
  obtain ⟨-, hsel⟩ | ⟨w, rest, -, hsel⟩ | ⟨r, rest, -, hsel⟩ | ⟨rest, -, hsel⟩ := nextSelector_cases s <;> rw [hsel] at h
  · exact .inl (decode_seqSelector_ok_iff.1 h)
  · obtain hnop | hload | hstart := decode_cmd_ok h
    · exact .inr (.inl hnop)
    · exact .inr (.inr (.inl hload))
    · exact .inr (.inr (.inr (.inl hstart)))
  · cases h
    exact .inr (.inr (.inr (.inr (.inl ⟨r, rfl⟩))))
  · cases h
    exact .inr (.inr (.inr (.inr (.inr rfl))))

/-- With a legal PHASE the next selector is never one for which the model has no step. -/
theorem decode_nextSelector_error (hlegal : s.phase.toNat ≤ 8) (h : decode (nextSelector s) = .error e) :
    e ≠ .reservedPhase := by
  obtain ⟨-, hsel⟩ | ⟨w, rest, -, hsel⟩ | ⟨r, rest, -, hsel⟩ | ⟨rest, -, hsel⟩ := nextSelector_cases s <;> rw [hsel] at h
  · obtain ⟨rfl, -⟩ | ⟨-, hreserved⟩ := decode_seqSelector_error h
    · simp
    · omega
  · simp [decode_cmd_error h]
  · cases h
  · cases h

/-- The sequencer's selector does not depend on the turns to come (R102). -/
theorem seqSelector_takeTurn (s : State) : seqSelector (takeTurn s) = seqSelector s := rfl

theorem Dispatches.takeTurn (h : Dispatches s i) : Dispatches (takeTurn s) i := by
  rw [← decode_seqSelector_ok_iff, seqSelector_takeTurn]
  exact decode_seqSelector_ok_iff.2 h

end Sys2Proof.Machine
end

section
/-! Proofs of the state family (`10_state.md`), part 3: under the invariants no step stops (R40, R66, R67). -/

namespace Sys2Proof.Machine

variable {s : State} {i : Instr} {n : Nat}

/-! ## When a shared operation answers a next state -/

theorem memRead_completes {space : Space} {m : Memory n} {i : Nat} {k : BitVec n → Result}
    (h : (Memory.read m i).isSome = true) (hk : ∀ v, ∃ t, k v = .next t) : ∃ t, memRead space m i k = .next t := by
  obtain ⟨v, hv⟩ := Option.isSome_iff_exists.1 h
  rw [memRead_of_some hv]
  exact hk v

theorem memWrite_completes {space : Space} {cap : Nat} {m : Memory n} {i : Nat} {v : BitVec n}
    {k : Memory n → Result} (h : i < cap) (hk : ∀ m', ∃ t, k m' = .next t) :
    ∃ t, memWrite space cap m i v k = .next t := by
  rw [memWrite_of_lt h]
  exact hk _

/-- Every answer of the sink, and a wait for it, is a next state (R210, log 4). -/
theorem emit_completes (b : Byte) (stage : PhaseCode) (s : State) : ∃ t, emit b stage s = .next t := by
  unfold emit
  split <;> exact ⟨_, rfl⟩

/-- Only a reserved PHASE has no step (log 6). -/
theorem noOperation_completes {e : DecodeError} (h : e ≠ .reservedPhase) (s : State) :
    ∃ t, noOperation e s = .next t := by
  cases e with
  | reservedPhase => exact absurd rfl h
  | noMicroOperation | reservedCommand | resetNotAsserted => exact ⟨_, rfl⟩

/-! ## When an operation answers a next state -/

theorem execPackBit_completes (hread : (Memory.read s.pay (s.idx / 8)).isSome = true) (hroom : s.idx < s.cfg.bitsCap) :
    ∃ t, execPackBit s = .next t :=
  memRead_completes hread fun _ => memWrite_completes hroom fun _ => ⟨_, rfl⟩

theorem execPackEnd_completes (s : State) : ∃ t, execPackEnd s = .next t := by
  unfold execPackEnd
  split <;> exact ⟨_, rfl⟩

/-- ENC.SYM waits, or reads the bit and writes the intensity. -/
theorem execEncSym_completes (hread : (Memory.read s.bits s.idx).isSome = true) (hroom : s.idx < s.cfg.intCap) :
    ∃ t, execEncSym s = .next t := by
  unfold execEncSym draw
  split
  · exact ⟨_, rfl⟩
  · exact memRead_completes hread fun _ => memWrite_completes hroom fun _ => ⟨_, rfl⟩

theorem execLayDim_completes (s : State) : ∃ t, execLayDim s = .next t := by
  unfold execLayDim
  split
  · exact ⟨_, rfl⟩
  · split <;> exact ⟨_, rfl⟩

/-- LAY.CELL reads INT for a data cell only. -/
theorem execLayCell_completes (hread : s.idx < s.nint → (Memory.read s.int s.idx).isSome = true)
    (hroom : s.idx < s.cfg.gridCap) : ∃ t, execLayCell s = .next t := by
  unfold execLayCell cellValue
  split
  · next hdata => exact memRead_completes (hread hdata) fun _ => memWrite_completes hroom fun _ => ⟨_, rfl⟩
  · exact memWrite_completes hroom fun _ => ⟨_, rfl⟩

/-- The header has `HLEN` bytes (R98). -/
@[simp] theorem header_length (w h : Nat) : (header w h).length = hlen w h := by
  simp [header, hlen]
  omega

theorem execSerHdr_completes (h : s.idx < hlen s.w s.h) : ∃ t, execSerHdr s = .next t := by
  unfold execSerHdr
  rw [List.getElem?_eq_getElem (by simpa using h)]
  exact emit_completes ..

theorem execSerPix_completes (h : (Memory.read s.grid s.idx).isSome = true) : ∃ t, execSerPix s = .next t :=
  memRead_completes h fun _ => emit_completes ..

theorem execLoad_completes {d : Byte} (h : s.plen ≤ s.cfg.payloadCap) : ∃ t, execLoad d s = .next t := by
  unfold execLoad
  split
  · exact ⟨_, rfl⟩
  · split
    · exact ⟨_, rfl⟩
    · next hfull => exact memWrite_completes (by omega) fun _ => ⟨_, rfl⟩

theorem execStart_completes (s : State) : ∃ t, execStart s = .next t := by
  unfold execStart
  split
  · exact ⟨_, rfl⟩
  · split
    · exact ⟨_, rfl⟩
    · split <;> exact ⟨_, rfl⟩

theorem execRd_completes (r : RegNum) (s : State) : ∃ t, execRd r s = .next t := by
  unfold execRd
  split <;> exact ⟨_, rfl⟩

/-! ## What the invariants give the operation that is next -/

/-- The invariants do not speak of the turns to come (log 1). -/
theorem Inv.takeTurn (h : Inv s) : Inv (takeTurn s) := { h with }

/-- In BODY the whole raster is written (R39). -/
theorem State.gridLen_body (h : s.phase = phBody) : s.gridLen = s.w * s.h := by
  simp [State.gridLen, h]

theorem Inv.packBit_completes (hinv : Inv s) (hp : s.phase = phPack) (hidx : s.idx < limit s) :
    ∃ t, execPackBit s = .next t := by
  rw [limit_pack hp] at hidx
  obtain ⟨-, -, -, hcap, -, -⟩ := hinv.packing hp
  exact execPackBit_completes ((hinv.payWritten _).2 (by omega)) (by omega)

theorem Inv.encSym_completes (hinv : Inv s) (hp : s.phase = phEncode) (hidx : s.idx < limit s) :
    ∃ t, execEncSym s = .next t := by
  rw [limit_encode hp] at hidx
  obtain ⟨-, -, hcap, -⟩ := hinv.encoding hp
  exact execEncSym_completes ((hinv.bitsWritten _).2 hidx) (by omega)

theorem Inv.layCell_completes (hinv : Inv s) (hp : s.phase = phFill) (hidx : s.idx < limit s) :
    ∃ t, execLayCell s = .next t := by
  rw [limit_fill hp] at hidx
  obtain ⟨-, -, -, -, hcap⟩ := hinv.raster (by simp [State.dimensioned, hp])
  exact execLayCell_completes (hinv.intWritten _).2 (by omega)

theorem Inv.serPix_completes (hinv : Inv s) (hp : s.phase = phBody) (hidx : s.idx < limit s) :
    ∃ t, execSerPix s = .next t := by
  rw [limit_body hp, ← State.gridLen_body hp] at hidx
  exact execSerPix_completes ((hinv.gridWritten _).2 hidx)

/-- Under the invariants every micro-operation that the dispatch names answers a next state. -/
theorem Inv.exec_of_dispatches (hinv : Inv s) (h : Dispatches s i) : ∃ t, exec i s = .next t := by
  cases h with
  | packBit hp hidx => exact hinv.packBit_completes hp hidx
  | packEnd => exact execPackEnd_completes s
  | encSym hp hidx => exact hinv.encSym_completes hp hidx
  | layDim => exact execLayDim_completes s
  | layCell hp hidx => exact hinv.layCell_completes hp hidx
  | serHdr hp hidx => exact execSerHdr_completes (limit_header hp ▸ hidx)
  | serPix hp hidx => exact hinv.serPix_completes hp hidx
  | encEnd | layEnd | serHend | serEnd => exact ⟨_, rfl⟩

/-- Settles O53: the step runs the dispatched micro-operation or a host transaction, or picks no operation in a legal
phase; each answers a next state. -/
theorem invariantsExcludeFaults : Obligations.InvariantsExcludeFaults := by
  intro s hinv
  cases hdec : decode (nextSelector s) with
  | error e =>
    rw [step_of_error hdec]
    exact noOperation_completes (decode_nextSelector_error hinv.phaseLegal hdec) _
  | ok i =>
    rw [step_of_ok hdec]
    obtain hseq | rfl | ⟨d, rfl⟩ | rfl | ⟨r, rfl⟩ | rfl := decode_nextSelector_ok hdec
    · exact hinv.takeTurn.exec_of_dispatches hseq.takeTurn
    · exact ⟨_, rfl⟩
    · exact execLoad_completes hinv.payFits
    · exact execStart_completes _
    · exact execRd_completes r _
    · exact ⟨_, rfl⟩

end Sys2Proof.Machine
end

section
/-! Proofs of the memory family (`20_memory.md`), part 1: the buffers stay in canonical form (R40, R60, log 7). -/

namespace Sys2Proof.Machine

variable {i : Instr} {s t : State}

/-! ## One buffer at a time: its one writer (R32) keeps its form -/

/-- PAY is written by LOAD alone. -/
theorem exec_keeps_pay_wf (h : exec i s = .next t) (hrst : i ≠ .rst) (hwf : Memory.wf s.pay = true) :
    Memory.wf t.pay = true := by
  obtain ⟨hwriter, -⟩ := registersHaveTheirWriters i s t h hrst
  by_cases hkept : t.pay = s.pay
  · rwa [hkept]
  · obtain ⟨d, rfl⟩ := hwriter (.inr hkept)
    obtain ⟨-, rfl⟩ | ⟨-, -, rfl⟩ | ⟨-, -, rfl⟩ := execLoad_next h
    · exact hwf
    · exact hwf
    · exact Memory.write_wf hwf

/-- BITS is written by PACK.BIT alone. -/
theorem exec_keeps_bits_wf (h : exec i s = .next t) (hrst : i ≠ .rst) (hwf : Memory.wf s.bits = true) :
    Memory.wf t.bits = true := by
  obtain ⟨-, -, hwriter, -⟩ := registersHaveTheirWriters i s t h hrst
  by_cases hkept : t.bits = s.bits
  · rwa [hkept]
  · obtain rfl := hwriter hkept
    obtain ⟨byt, -, -, rfl⟩ := execPackBit_next h
    exact Memory.write_wf hwf

/-- INT is written by ENC.SYM alone. -/
theorem exec_keeps_int_wf (h : exec i s = .next t) (hrst : i ≠ .rst) (hwf : Memory.wf s.int = true) :
    Memory.wf t.int = true := by
  obtain ⟨-, -, -, -, hwriter, -⟩ := registersHaveTheirWriters i s t h hrst
  by_cases hkept : t.int = s.int
  · rwa [hkept]
  · obtain rfl := hwriter hkept
    obtain ⟨-, rfl⟩ | ⟨c, rest, b, -, -, -, rfl⟩ := execEncSym_next h
    · exact hwf
    · exact Memory.write_wf hwf

/-- GRID is written by LAY.CELL alone. -/
theorem exec_keeps_grid_wf (h : exec i s = .next t) (hrst : i ≠ .rst) (hwf : Memory.wf s.grid = true) :
    Memory.wf t.grid = true := by
  obtain ⟨-, -, -, -, -, -, hwriter, -⟩ := registersHaveTheirWriters i s t h hrst
  by_cases hkept : t.grid = s.grid
  · rwa [hkept]
  · obtain rfl := hwriter hkept
    obtain ⟨g, -, -, rfl⟩ := execLayCell_next h
    exact Memory.write_wf hwf

/-- Settles O50: RST empties the buffers, every other operation keeps each buffer's form, and a turn that picks no
operation changes none. -/
theorem buffersStayCanonical : Obligations.BuffersStayCanonical := by
  intro s t hpay hbits hint hgrid h
  obtain ⟨i, -, h⟩ | ⟨e, -, h⟩ := step_next h
  · by_cases hrst : i = .rst
    · subst hrst
      obtain rfl := execRst_next h
      simp
    · exact ⟨exec_keeps_pay_wf h hrst hpay, exec_keeps_bits_wf h hrst hbits, exec_keeps_int_wf h hrst hint,
        exec_keeps_grid_wf h hrst hgrid⟩
  · obtain ⟨-, rfl⟩ | ⟨-, rfl⟩ | ⟨-, rfl⟩ := noOperation_next h <;> exact ⟨hpay, hbits, hint, hgrid⟩

end Sys2Proof.Machine
end

section
/-! Proofs of the memory family (`20_memory.md`), part 2: what the operations do at the randomness port and at the sink
(R65, R209, R210). -/

namespace Sys2Proof.Machine

variable {i : Instr} {s t : State}

/-- No draw is spent, and the records of draws and requests are as they were. -/
def DrawsKept (s t : State) : Prop := t.draws = s.draws ∧ t.drawn = s.drawn ∧ t.asked = s.asked

/-- No answer of the sink is spent, and OUT and OUTCNT are as they were. -/
def SinkKept (s t : State) : Prop := t.sink = s.sink ∧ t.out = s.out ∧ t.outcnt = s.outcnt

/-- The operations with a port exchange in their rule (R107, R209, R210). -/
def usesPort : Instr → Prop
  | .encSym | .serHdr | .serPix => True
  | _ => False

/-- An operation without a port exchange leaves both ports alone; RST starts new records (R250). -/
theorem exec_keeps_ports (h : exec i s = .next t) (hport : ¬ usesPort i) (hrst : i ≠ .rst) :
    DrawsKept s t ∧ SinkKept s t := by
  unfold DrawsKept SinkKept
  cases i with
  | encSym | serHdr | serPix => exact absurd trivial hport
  | rst => exact absurd rfl hrst
  | packBit => obtain ⟨byt, -, -, rfl⟩ := execPackBit_next h; simp
  | packEnd => obtain ⟨-, rfl⟩ | ⟨-, rfl⟩ := execPackEnd_next h <;> simp
  | encEnd => obtain rfl := execEncEnd_next h; simp
  | layDim => obtain ⟨-, rfl⟩ | ⟨-, -, rfl⟩ | ⟨-, -, rfl⟩ := execLayDim_next h <;> simp
  | layCell => obtain ⟨g, -, -, rfl⟩ := execLayCell_next h; simp
  | layEnd => obtain rfl := execLayEnd_next h; simp
  | serHend => obtain rfl := execSerHend_next h; simp
  | serEnd => obtain rfl := execSerEnd_next h; simp
  | nop => obtain rfl := execNop_next h; simp
  | load d => obtain ⟨-, rfl⟩ | ⟨-, -, rfl⟩ | ⟨-, -, rfl⟩ := execLoad_next h <;> simp
  | start => obtain ⟨-, rfl⟩ | ⟨-, -, rfl⟩ | ⟨-, -, -, rfl⟩ | ⟨-, -, -, rfl⟩ := execStart_next h <;> simp
  | rd r => obtain ⟨n, -, rfl⟩ | ⟨-, rfl⟩ := execRd_next h <;> simp

/-- ENC.SYM waits or spends one draw, asked for from 1 to 254 (R107, R156), and has nothing to do with the sink. -/
theorem execEncSym_ports (h : execEncSym s = .next t) :
    (DrawsKept s t ∨
      t.asked = s.asked ++ [⟨1, 254⟩] ∧ ∃ c, s.draws = c :: t.draws ∧ t.drawn = s.drawn ++ [c]) ∧ SinkKept s t := by
  obtain ⟨-, rfl⟩ | ⟨c, rest, b, hdraws, -, -, rfl⟩ := execEncSym_next h
  · exact ⟨.inl ⟨rfl, rfl, rfl⟩, rfl, rfl, rfl⟩
  · exact ⟨.inr ⟨rfl, c, hdraws, rfl⟩, rfl, rfl, rfl⟩

/-- Emit waits, spends one FAIL and sends nothing, or spends one ACCEPT and sends its byte (R210); it draws nothing. -/
theorem emit_ports {b : Byte} {stage : PhaseCode} (h : emit b stage s = .next t) :
    DrawsKept s t ∧
      (SinkKept s t ∨ (s.sink = .fail :: t.sink ∧ t.out = s.out ∧ t.outcnt = s.outcnt) ∨
        (s.sink = .accept :: t.sink ∧ t.out = s.out ++ [b] ∧ t.outcnt = s.outcnt + 1)) := by
  obtain ⟨-, rfl⟩ | ⟨rest, hsink, rfl⟩ | ⟨rest, hsink, rfl⟩ := emit_next h
  · exact ⟨⟨rfl, rfl, rfl⟩, .inl ⟨rfl, rfl, rfl⟩⟩
  · exact ⟨⟨rfl, rfl, rfl⟩, .inr (.inr ⟨hsink, rfl, rfl⟩)⟩
  · exact ⟨⟨rfl, rfl, rfl⟩, .inr (.inl ⟨hsink, rfl, rfl⟩)⟩

/-- Settles O49: the three operations with a port exchange, one by one, and all the others at once. -/
theorem portsAreUsedOncePerElement : Obligations.PortsAreUsedOncePerElement := by
  intro i s t h hrst
  cases i with
  | encSym =>
    obtain ⟨hdraws | ⟨hasked, hdrawn⟩, hsink⟩ := execEncSym_ports h
    · exact ⟨.inl hdraws, .inl hsink⟩
    · exact ⟨.inr ⟨rfl, hasked, hdrawn⟩, .inl hsink⟩
  | serHdr =>
    obtain ⟨b, hb, h⟩ := execSerHdr_next h
    obtain ⟨hdraws, hsink | hfail | ⟨hsink, hout, hcnt⟩⟩ := emit_ports h
    · exact ⟨.inl hdraws, .inl hsink⟩
    · exact ⟨.inl hdraws, .inr ⟨.inl rfl, .inl hfail⟩⟩
    · exact ⟨.inl hdraws, .inr ⟨.inl rfl, .inr ⟨hsink, b, hout, hcnt, fun _ => hb, nofun⟩⟩⟩
  | serPix =>
    obtain ⟨b, hb, h⟩ := execSerPix_next h
    obtain ⟨hdraws, hsink | hfail | ⟨hsink, hout, hcnt⟩⟩ := emit_ports h
    · exact ⟨.inl hdraws, .inl hsink⟩
    · exact ⟨.inl hdraws, .inr ⟨.inr rfl, .inl hfail⟩⟩
    · exact ⟨.inl hdraws, .inr ⟨.inr rfl, .inr ⟨hsink, b, hout, hcnt, nofun, fun _ => hb⟩⟩⟩
  | _ =>
    obtain ⟨hdraws, hsink⟩ := exec_keeps_ports h id hrst
    exact ⟨.inl hdraws, .inl hsink⟩

end Sys2Proof.Machine
end

section
/-! Proofs of the memory family (`20_memory.md`), part 3: what an error leaves in OUT (R74, R193, R224, R225). -/

namespace Sys2Proof.Machine

variable {s : State}

/-- The pairs of ERR and ERRSTAGE of R221, ERR by ERR: an error before HEADER is EmptySourceError or AllocationError, an
IoError is of HEADER or BODY, and there is no other. -/
theorem errorPairs_cases {err stage : Nat} (h : (err, stage) ∈ errorPairs) :
    err = 0 ∨ ((err = 1 ∨ err = 2) ∧ stage ≤ 3) ∨ (err = 4 ∧ (stage = 5 ∨ stage = 6)) := by
  simp only [errorPairs, List.mem_cons, Prod.mk.injEq, List.not_mem_nil, or_false] at h
  omega

/-- In ERROR the sink has failed exactly where ERR is IoError; else ERR is one of the first two (R221, R225). -/
theorem Inv.error_cases (hinv : Inv s) (hp : s.phase = phError) :
    ((s.err = 1 ∨ s.err = 2) ∧ ¬ s.sinkFailed) ∨ (s.err = 4 ∧ s.sinkFailed) := by
  have herr : s.err ≠ 0 := hinv.errorPhase.1 hp
  obtain hzero | ⟨hearly, hstage⟩ | ⟨hio, hstage⟩ := errorPairs_cases hinv.errorPair
  · exact absurd (BitVec.eq_of_toNat_eq hzero) herr
  · refine .inl ⟨by bv_omega, fun ⟨_, hsink⟩ => ?_⟩
    bv_omega
  · exact .inr ⟨by bv_omega, hp, by bv_omega⟩

/-- R74, R224: before HEADER nothing is sent, so an error raised there leaves OUT empty. -/
theorem Inv.nothingSent_of_error (hinv : Inv s) (hp : s.phase = phError) (hsink : ¬ s.sinkFailed) :
    s.out = [] ∧ s.outcnt = 0 := by
  have hout : s.out = [] := hinv.outEmpty (by simp [State.laidOut, hp]) hsink
  exact ⟨hout, by rw [hinv.outCount, hout, List.length_nil]⟩

/-- R193: after a failure of the sink a byte of the frame is still unsent. -/
theorem Inv.properPrefix_of_sinkFailed (hinv : Inv s) (hsink : s.sinkFailed) :
    ∃ b rest, s.rasterFrame = s.out ++ b :: rest := by
  obtain ⟨hlt, hout⟩ := hinv.failedPrefix hsink
  refine ⟨s.rasterFrame[s.outcnt], s.rasterFrame.drop (s.outcnt + 1), ?_⟩
  rw [hout, ← List.drop_eq_getElem_cons hlt, List.take_append_drop]

/-- Settles O55: the errors before HEADER and those of the sink. -/
theorem earlyErrorsSendNothing : Obligations.EarlyErrorsSendNothing := by
  intro s hinv hp
  obtain ⟨herr, hsink⟩ | ⟨herr, hsink⟩ := hinv.error_cases hp
  · exact ⟨by bv_omega, fun _ => hinv.nothingSent_of_error hp hsink, fun hio => by bv_omega⟩
  · exact ⟨by bv_omega, fun hearly => by bv_omega, fun _ => hinv.properPrefix_of_sinkFailed hsink⟩

end Sys2Proof.Machine
end

section
/-! Proofs of the encoding family (`30_encoding.md`), part 1: the fields of the selector words, and the encoder against
the decoder (R102 to R106). -/

namespace Sys2Proof

/-! ## Words by their fields (R102, R104) -/

theorem exists_eq_seqWord (w : SeqWord) : ∃ p e, w = seqWord p e := by
  refine ⟨w.extractLsb' 1 4, w.getLsbD 0, ?_⟩
  revert w
  decide

theorem seqWord_phase (p : PhaseCode) (e : Bool) : (seqWord p e).extractLsb' 1 4 = p :=
  BitVec.extractLsb'_append_eq_left

theorem exists_eq_cmdWord (w : CmdWord) : ∃ op d, w = cmdWord op d :=
  ⟨w.extractLsb' 8 2, w.extractLsb' 0 8, (BitVec.extractLsb'_append_extractLsb' (w := 2) (len := 8)).symm⟩

theorem cmdWord_op (op : BitVec 2) (d : Byte) : (cmdWord op d).extractLsb' 8 2 = op :=
  BitVec.extractLsb'_append_eq_left

theorem cmdWord_data (op : BitVec 2) (d : Byte) : (cmdWord op d).extractLsb' 0 8 = d :=
  BitVec.extractLsb'_append_eq_right

theorem cmdWord_toNat (op : BitVec 2) (d : Byte) : (cmdWord op d).toNat = op.toNat * 256 + d.toNat := by
  rw [cmdWord, BitVec.toNat_append, ← Nat.shiftLeft_add_eq_or_of_lt d.isLt, Nat.shiftLeft_eq]

/-! ## Decoding and clearing the ignored bits, field by field -/

/-- The CMD table by `op`; only LOAD reads `d` (R105). -/
theorem decode_cmdWord (op : BitVec 2) (d : Byte) :
    decode (.cmd (cmdWord op d)) =
      if op = 0 then .ok .nop else if op = 1 then .ok (.load d) else if op = 2 then .ok .start
      else .error .reservedCommand := by
  simp only [decode, decodeCmd, cmdWord_op, cmdWord_data]
  have hop : op = 0 ∨ op = 1 ∨ op = 2 ∨ op = 3 := by revert op; decide
  obtain rfl | rfl | rfl | rfl := hop <;> rfl

theorem decode_rst (w : BitVec 1) : decode (.rst w) = if w = 1 then .ok .rst else .error .resetNotAsserted := rfl

/-- ATEND is cleared in DIM only (R102). -/
theorem canonical_seqWord (p : PhaseCode) (e : Bool) :
    (Selector.seq (seqWord p e)).canonical = .seq (seqWord p (if p = 3 then false else e)) := by
  by_cases hdim : p = 3
  · simp only [Selector.canonical, seqWord_phase, hdim, if_true]
  · simp only [Selector.canonical, seqWord_phase, if_neg hdim]

/-- The data byte is cleared in NOP and START only (R105). -/
theorem canonical_cmdWord (op : BitVec 2) (d : Byte) :
    (Selector.cmd (cmdWord op d)).canonical = .cmd (cmdWord op (if op = 0 ∨ op = 2 then 0 else d)) := by
  by_cases hignored : op = 0 ∨ op = 2
  · simp only [Selector.canonical, cmdWord_op, if_pos hignored]
  · simp only [Selector.canonical, cmdWord_op, if_neg hignored]

/-! ## The round trip -/

theorem decode_encode (i : Instr) : decode (encode i) = .ok i := by
  cases i with
  | packBit => exact Laws.RoundTrip.packBit.1
  | packEnd => exact Laws.RoundTrip.packEnd.1
  | encSym => exact Laws.RoundTrip.encSym.1
  | encEnd => exact Laws.RoundTrip.encEnd.1
  | layDim => exact Laws.RoundTrip.layDim.1
  | layCell => exact Laws.RoundTrip.layCell.1
  | layEnd => exact Laws.RoundTrip.layEnd.1
  | serHdr => exact Laws.RoundTrip.serHdr.1
  | serHend => exact Laws.RoundTrip.serHend.1
  | serPix => exact Laws.RoundTrip.serPix.1
  | serEnd => exact Laws.RoundTrip.serEnd.1
  | nop => exact Laws.RoundTrip.nop.1
  | load d => exact (Laws.RoundTrip.load d).1
  | start => exact Laws.RoundTrip.start.1
  | rd r => exact (Laws.RoundTrip.rd r).1
  | rst => exact Laws.RoundTrip.rst.1

/-- The bits that are cleared are those the decoder does not read. -/
theorem decode_canonical (x : Selector) : decode x.canonical = decode x := by
  cases x with
  | seq w =>
    obtain ⟨p, e, rfl⟩ := exists_eq_seqWord w
    rw [canonical_seqWord]
    by_cases hdim : p = 3
    · simp [Machine.decode_seqWord, hdim]
    · rw [if_neg hdim]
  | cmd w =>
    obtain ⟨op, d, rfl⟩ := exists_eq_cmdWord w
    rw [canonical_cmdWord]
    by_cases hignored : op = 0 ∨ op = 2
    · obtain rfl | rfl := hignored <;> simp [decode_cmdWord]
    · rw [if_neg hignored]
  | rd r => rfl
  | rst w => rfl

theorem canonical_seq_of_decode {w : SeqWord} {i : Instr} (h : decode (.seq w) = .ok i) :
    (Selector.seq w).canonical = encode i := by
  obtain ⟨p, e, rfl⟩ := exists_eq_seqWord w
  rw [Machine.decode_seqWord] at h
  rw [canonical_seqWord]
  split_ifs at h with hpack hlast hencode hlast hdim hfill hlast hheader hlast hbody hlast <;> cases h
  · simp [hpack, hlast, encode]
  · simp [hpack, hlast, encode]
  · simp [hencode, hlast, encode]
  · simp [hencode, hlast, encode]
  · simp [hdim, encode]
  · simp [hfill, hlast, encode]
  · simp [hfill, hlast, encode]
  · simp [hheader, hlast, encode]
  · simp [hheader, hlast, encode]
  · simp [hbody, hlast, encode]
  · simp [hbody, hlast, encode]

theorem canonical_cmd_of_decode {w : CmdWord} {i : Instr} (h : decode (.cmd w) = .ok i) :
    (Selector.cmd w).canonical = encode i := by
  obtain ⟨op, d, rfl⟩ := exists_eq_cmdWord w
  rw [decode_cmdWord] at h
  rw [canonical_cmdWord]
  split_ifs at h with hnop hload hstart <;> cases h
  · simp [hnop, encode]
  · simp [hload, encode]
  · simp [hstart, encode]

/-- A selector that decodes to an operation differs from the encoder's in ignored bits at most. -/
theorem canonical_of_decode {x : Selector} {i : Instr} (h : decode x = .ok i) : x.canonical = encode i := by
  cases x with
  | seq w => exact canonical_seq_of_decode h
  | cmd w => exact canonical_cmd_of_decode h
  | rd r => cases h; rfl
  | rst w =>
    rw [decode_rst] at h
    split_ifs at h with hw
    cases h
    rw [hw]
    rfl

/-- Settles O1: the decoder undoes the encoder, and the encoder's word is the decoded word without its ignored bits. -/
theorem decodeEncodeAgree : Obligations.DecodeEncodeAgree :=
  ⟨decode_encode, fun _ _ => canonical_of_decode, decode_canonical⟩

/-! ## The tables -/

/-- Settles O2, by evaluating the decoder on each of the 32 selectors. -/
theorem sequencerSelectorTable : Obligations.SequencerSelectorTable := by
  unfold Obligations.SequencerSelectorTable
  decide

/-- Settles O3: a word with that value is the word built from the two fields. -/
theorem commandWordTable : Obligations.CommandWordTable := by
  intro op d w hvalue
  obtain rfl : w = cmdWord op d := BitVec.eq_of_toNat_eq (hvalue.trans (cmdWord_toNat op d).symm)
  exact decode_cmdWord op d

/-- Settles O4, by evaluating the decoder on the nine words. -/
theorem writtenWordsDecode : Obligations.WrittenWordsDecode := by
  unfold Obligations.WrittenWordsDecode
  decide

end Sys2Proof
end

section
/-! Proofs of the encoding family (`30_encoding.md`), part 2: the status read (R106, R207). -/

namespace Sys2Proof.Machine

/-- The status registers in the order of their numbers (R106). -/
def statusRegisters (s : State) : List Nat :=
  [s.phase.toNat, s.err.toNat, s.errStage.toNat, s.plen, s.nbits, s.nint, s.w, s.h, s.idx, s.outcnt]

theorem statusValue_eq_getElem? (r : RegNum) (s : State) : statusValue r s = (statusRegisters s)[r.toNat]? := by
  obtain ⟨⟨k, hk⟩⟩ := r
  interval_cases k <;> rfl

/-- RD of a register is answered with its value (R207). -/
theorem exec_rd_of_some {r : RegNum} {s : State} {n : Nat} (h : statusValue r s = some n) :
    exec (.rd r) s = .next (s.answerValue n) := by
  simp [exec, execRd, h]

/-- RD of a number that names no register is refused (R207). -/
theorem exec_rd_of_none {r : RegNum} {s : State} (h : statusValue r s = none) :
    exec (.rd r) s = .next s.refuse := by
  simp [exec, execRd, h]

/-- Settles O37: RD answers the element of the register list that the number picks, and refuses if there is none. -/
theorem statusReadAnswersOnly : Obligations.StatusReadAnswersOnly := by
  refine ⟨fun r => rfl, fun s r => ?_⟩
  split
  · next n hn => exact exec_rd_of_some ((statusValue_eq_getElem? r s).trans hn)
  · next hn => exact exec_rd_of_none ((statusValue_eq_getElem? r s).trans hn)

end Sys2Proof.Machine
end

section
/-! Proofs of the encoding family (`30_encoding.md`), part 3: decimal numerals (R95, R96). -/

namespace Sys2Proof.Machine

/-! ## The defining equations -/

theorem decFrom_of_lt {n : Nat} (fuel : Nat) (h : n < 10) : decFrom fuel n = [digitByte n] := by
  cases fuel <;> simp [decFrom, h]

theorem decFrom_succ_of_ge {n : Nat} (fuel : Nat) (h : 10 ≤ n) :
    decFrom (fuel + 1) n = decFrom fuel (n / 10) ++ [digitByte (n % 10)] := if_neg (by omega)

/-- Any fuel of at least `n` gives the whole numeral. -/
theorem decFrom_eq_dec {fuel n : Nat} (h : n ≤ fuel) : decFrom fuel n = dec n := by
  induction n using Nat.strongRec generalizing fuel with
  | ind n ih =>
    obtain hlt | hge := Nat.lt_or_ge n 10
    · rw [dec, decFrom_of_lt fuel hlt, decFrom_of_lt n hlt]
    · obtain ⟨m, rfl⟩ : ∃ m, n = m + 1 := ⟨n - 1, by omega⟩
      obtain ⟨f, rfl⟩ : ∃ f, fuel = f + 1 := ⟨fuel - 1, by omega⟩
      rw [dec, decFrom_succ_of_ge f hge, decFrom_succ_of_ge m hge, ih _ (by omega) (by omega),
        ih _ (by omega) (by omega)]

theorem dec_of_lt {n : Nat} (h : n < 10) : dec n = [digitByte n] := decFrom_of_lt n h

theorem dec_of_ge {n : Nat} (h : 10 ≤ n) : dec n = dec (n / 10) ++ [digitByte (n % 10)] := by
  rw [← decFrom_eq_dec (show n ≤ n - 1 + 1 by omega), decFrom_succ_of_ge _ h, decFrom_eq_dec (by omega)]

theorem nd_of_lt {n : Nat} (h : n < 10) : nd n = 1 := by
  rw [← dec_length, dec_of_lt h, List.length_singleton]

theorem nd_of_ge {n : Nat} (h : 10 ≤ n) : nd n = 1 + nd (n / 10) := by
  rw [← dec_length, dec_of_ge h, List.length_append, dec_length, List.length_singleton, Nat.add_comm]

/-! ## What the digits say -/

/-- The induction that the two equations of `dec` allow: one digit, or one digit more. -/
theorem decimal_induction {P : Nat → Prop} (digit : ∀ n, n < 10 → P n) (more : ∀ n, 10 ≤ n → P (n / 10) → P n)
    (n : Nat) : P n := by
  induction n using Nat.strongRec with
  | ind n ih =>
    obtain hlt | hge := Nat.lt_or_ge n 10
    · exact digit n hlt
    · exact more n hge (ih _ (by omega))

theorem dec_ne_nil (n : Nat) : dec n ≠ [] := by
  obtain hlt | hge := Nat.lt_or_ge n 10
  · simp [dec_of_lt hlt]
  · simp [dec_of_ge hge]

theorem digitByte_toNat {d : Nat} (h : d < 10) : (digitByte d).toNat = 0x30 + d := by
  rw [digitByte, BitVec.toNat_ofNat, Nat.mod_eq_of_lt (by omega)]

theorem digitByte_bounds {d : Nat} (h : d < 10) : 0x30 ≤ (digitByte d).toNat ∧ (digitByte d).toNat ≤ 0x39 := by
  rw [digitByte_toNat h]
  omega

/-- The numeral, read from the left, has the value `n`. -/
theorem dec_value (n : Nat) : (dec n).foldl (fun acc b => 10 * acc + (b.toNat - 0x30)) 0 = n := by
  induction n using decimal_induction with
  | digit n hlt => simp [dec_of_lt hlt, digitByte_toNat hlt]
  | more n hge ih =>
    have hdigit : n % 10 < 10 := Nat.mod_lt n (by omega)
    rw [dec_of_ge hge, List.foldl_append, ih, List.foldl_cons, List.foldl_nil, digitByte_toNat hdigit]
    omega

theorem dec_bytes_are_digits (n : Nat) : ∀ b ∈ dec n, 0x30 ≤ b.toNat ∧ b.toNat ≤ 0x39 := by
  induction n using decimal_induction with
  | digit n hlt =>
    rw [dec_of_lt hlt, List.forall_mem_singleton]
    exact digitByte_bounds hlt
  | more n hge ih =>
    rw [dec_of_ge hge, List.forall_mem_append, List.forall_mem_singleton]
    exact ⟨ih, digitByte_bounds (Nat.mod_lt n (by omega))⟩

/-- The leading digit of the numeral of a number of at least 1 is not the digit 0. -/
theorem dec_head?_ne_zero {n : Nat} (h : 1 ≤ n) : (dec n).head? ≠ some 0x30 := by
  induction n using decimal_induction with
  | digit n hlt =>
    rw [dec_of_lt hlt, List.head?_cons]
    intro hzero
    have hcode : (digitByte n).toNat = 0x30 := congrArg BitVec.toNat (Option.some_inj.1 hzero)
    rw [digitByte_toNat hlt] at hcode
    omega
  | more n hge ih =>
    rw [dec_of_ge hge, List.head?_append_of_ne_nil _ (dec_ne_nil _)]
    exact ih (by omega)

/-- Settles O28: the equations, the value and the digits, each by its lemma. -/
theorem decimalNumerals : Obligations.DecimalNumerals :=
  fun n hpos => ⟨fun hlt => ⟨dec_of_lt hlt, nd_of_lt hlt⟩, fun hge => ⟨dec_of_ge hge, nd_of_ge hge⟩, dec_length n,
    dec_value n, dec_head?_ne_zero hpos, dec_bytes_are_digits n⟩

end Sys2Proof.Machine
end

section
/-! Proofs of the encoding family (`30_encoding.md`), part 4: the bytes of the header (R97, R98, R188). -/

namespace Sys2Proof.Machine

/-- What follows the height in the header: its newline, and the line of the maximal value (R97). -/
def headerEnd : List Byte := [Config.newline, 0x32, 0x35, 0x35, Config.newline]

variable {w h i k : Nat}

theorem header_eq (w h : Nat) :
    header w h = [0x50, 0x35, Config.newline] ++ (dec w ++ (0x20 :: (dec h ++ headerEnd))) := by
  simp [header, headerEnd]

/-- Past the first list of an append, the second one is read from its start. -/
theorem getElem?_append_at {α : Type} {l m : List α} {n : Nat} (hl : l.length = n) (k : Nat) :
    (l ++ m)[n + k]? = m[k]? := by
  rw [List.getElem?_append_right (by omega), hl, Nat.add_sub_cancel_left]

theorem header_after_magic (w h k : Nat) : (header w h)[3 + k]? = (dec w ++ (0x20 :: (dec h ++ headerEnd)))[k]? := by
  rw [header_eq]
  exact getElem?_append_at rfl k

theorem header_after_width (w h k : Nat) : (header w h)[3 + nd w + k]? = (0x20 :: (dec h ++ headerEnd))[k]? := by
  rw [Nat.add_assoc, header_after_magic, getElem?_append_at (dec_length w)]

theorem header_after_space (w h k : Nat) : (header w h)[4 + nd w + k]? = (dec h ++ headerEnd)[k]? := by
  rw [show 4 + nd w + k = 3 + nd w + (k + 1) by omega, header_after_width, List.getElem?_cons_succ]

theorem header_after_height (hi : i = 4 + nd w + nd h + k) : (header w h)[i]? = headerEnd[k]? := by
  rw [hi, Nat.add_assoc, header_after_space, getElem?_append_at (dec_length h)]

/-- Settles O29: each byte is read from the part of the header that its index falls in. -/
theorem headerBytes : Obligations.HeaderBytes := by
  intro w h
  have hwidth (k : Nat) (hk : k < nd w) : (header w h)[3 + k]? = (dec w)[k]? := by
    rw [header_after_magic, List.getElem?_append_left (by rwa [dec_length])]
  have hheight (k : Nat) (hk : k < nd h) : (header w h)[4 + nd w + k]? = (dec h)[k]? := by
    rw [header_after_space, List.getElem?_append_left (by rwa [dec_length])]
  exact ⟨header_length w h, rfl, rfl, rfl, hwidth, header_after_width w h 0, hheight,
    header_after_height (k := 0) (by omega), header_after_height (k := 1) (by omega),
    header_after_height (k := 2) (by omega), header_after_height (k := 3) (by omega),
    header_after_height (k := 4) (by omega)⟩

end Sys2Proof.Machine
end

section
/-! Proofs of the sequencer family (`40_sequencer.md`), part 1: what the invariants say of each phase, and what is
enough for them there (R130). -/

namespace Sys2Proof.Machine

variable {s : State}

/-! ## The parts of the invariants -/

/-- The written cells of a buffer are its first `len` cells. -/
def Memory.writtenBelow {n : Nat} (m : Memory n) (len : Nat) : Prop :=
  ∀ i, (Memory.read m i).isSome = true ↔ i < len

/-- What R130 says whatever PHASE is: of PAY, BITS and INT (I3, R36 to R38), of draws and requests (I7, R209), and of
OUTCNT (I16). -/
structure BufferInv (s : State) : Prop where
  payFits : s.plen ≤ s.cfg.payloadCap
  canonical : Memory.wf s.pay = true ∧ Memory.wf s.bits = true ∧ Memory.wf s.int = true ∧ Memory.wf s.grid = true
  payWritten : s.pay.writtenBelow s.plen
  bitsWritten : s.bits.writtenBelow s.nbits
  intWritten : s.int.writtenBelow s.nint
  drawnCount : s.drawn.length = s.nint
  askedBounds : s.asked = List.replicate s.nint ⟨Config.drawLo, Config.drawHi⟩
  outCount : s.outcnt = s.out.length

/-- No error is recorded (R22, R23). -/
structure NoError (s : State) : Prop where
  err : s.err = 0
  errStage : s.errStage = 0

/-- Up to DIM there are no dimensions, no cell of GRID is written and nothing is sent (I9, R39, I16). -/
structure UnlaidInv (s : State) : Prop where
  noDims : s.w = 0 ∧ s.h = 0
  gridEmpty : s.grid.writtenBelow 0
  outEmpty : s.out = []

/-- From ENCODE on the payload is packed (I6). -/
structure PackedInv (s : State) : Prop where
  plenPos : 1 ≤ s.plen
  nbitsEq : s.nbits = 8 * s.plen
  bitSeqEq : s.bitSeq = pack s.payload

/-- From DIM on the bits are encoded (I8). -/
structure EncodedInv (s : State) : Prop extends PackedInv s where
  nintEq : s.nint = s.nbits
  intSeqEq : s.intSeq = encodeBits s.bitSeq s.drawn

/-- From FILL on the dimensions are known and GRID holds the raster (I10). -/
structure DimensionedInv (s : State) : Prop extends EncodedInv s where
  dimsEq : (s.w, s.h) = dims s.nint
  gridFits : s.w * s.h ≤ s.cfg.gridCap

/-- From HEADER on the raster is laid out (I12, R39). -/
structure FilledInv (s : State) : Prop extends DimensionedInv s where
  gridWritten : s.grid.writtenBelow (s.w * s.h)
  rasterEq : s.rasterCells = layoutCells s.intSeq

/-! ## How many cells of GRID are written (R39) -/

theorem State.gridLen_of_fill (h : s.phase = phFill) : s.gridLen = s.idx := by
  simp [State.gridLen, h]

theorem State.gridLen_of_laidOut (h : s.laidOut) : s.gridLen = s.w * s.h := by
  have hfill : s.phase ≠ phFill := by have := h.1; bv_omega
  rw [State.gridLen, if_neg hfill, if_pos (.inl h)]

theorem State.gridLen_of_sinkFailed (h : s.sinkFailed) : s.gridLen = s.w * s.h := by
  have hfill : s.phase ≠ phFill := by have := h.1; bv_omega
  rw [State.gridLen, if_neg hfill, if_pos (.inr h)]

theorem State.gridLen_of_unlaid (hfill : s.phase ≠ phFill) (hlaid : ¬ s.laidOut) (hsink : ¬ s.sinkFailed) :
    s.gridLen = 0 := by
  unfold State.gridLen
  rw [if_neg hfill, if_neg]
  exact not_or.2 ⟨hlaid, hsink⟩

/-! ## What the invariants give in each phase -/

theorem Inv.buffers (hinv : Inv s) : BufferInv s := { hinv with }

theorem Inv.noError (hinv : Inv s) (hp : s.phase ≠ phError) : NoError s := by
  have herr : s.err = 0 := not_not.1 fun hne => hp (hinv.errorPhase.2 hne)
  have hpair := hinv.errorPair
  rw [herr] at hpair
  simp [errorPairs] at hpair
  exact ⟨herr, BitVec.eq_of_toNat_eq hpair⟩

theorem Inv.unlaid (hinv : Inv s) (hp : s.phase.toNat ≤ 3) : UnlaidInv s := by
  have hfill : s.phase ≠ phFill := by bv_omega
  have hlaid : ¬ s.laidOut := fun ⟨hlo, _⟩ => by omega
  have hsink : ¬ s.sinkFailed := fun ⟨herr, _⟩ => by bv_omega
  exact ⟨hinv.undimensioned hp, State.gridLen_of_unlaid hfill hlaid hsink ▸ hinv.gridWritten,
    hinv.outEmpty hlaid hsink⟩

theorem Inv.packedInv (hinv : Inv s) (hp : s.packed) : PackedInv s := by
  obtain ⟨hplen, hnbits, hseq⟩ := hinv.packedBits hp
  exact ⟨hplen, hnbits, hseq⟩

theorem Inv.encodedInv (hinv : Inv s) (hp : s.encoded) : EncodedInv s := by
  obtain ⟨hnint, -, hseq⟩ := hinv.encodedInts hp
  exact ⟨hinv.packedInv ⟨by have := hp.1; omega, hp.2⟩, hnint, hseq⟩

theorem Inv.dimensionedInv (hinv : Inv s) (hp : s.dimensioned) : DimensionedInv s := by
  obtain ⟨hdims, -, -, -, hfits⟩ := hinv.raster hp
  exact ⟨hinv.encodedInv ⟨by have := hp.1; omega, hp.2⟩, hdims, hfits⟩

theorem Inv.filledInv (hinv : Inv s) (hp : s.laidOut) : FilledInv s :=
  ⟨hinv.dimensionedInv ⟨by have := hp.1; omega, hp.2⟩, State.gridLen_of_laidOut hp ▸ hinv.gridWritten,
    hinv.filled hp⟩

/-! ## The dimensions of a raster (I10, R165 to R170) -/

theorem PackedInv.nbits_ge (h : PackedInv s) : 8 ≤ s.nbits := by
  have hpos := h.plenPos
  have hnbits := h.nbitsEq
  omega

theorem PackedInv.packedFacts (h : PackedInv s) : 1 ≤ s.plen ∧ s.nbits = 8 * s.plen ∧ s.bitSeq = pack s.payload :=
  ⟨h.plenPos, h.nbitsEq, h.bitSeqEq⟩

theorem EncodedInv.nint_ge (h : EncodedInv s) : 8 ≤ s.nint := h.nintEq ▸ h.nbits_ge

theorem EncodedInv.encodedFacts (h : EncodedInv s) :
    s.nint = s.nbits ∧ 8 ≤ s.nint ∧ s.intSeq = encodeBits s.bitSeq s.drawn := ⟨h.nintEq, h.nint_ge, h.intSeqEq⟩

theorem cells_ge (hn : 1 ≤ n) : n ≤ cells n := ceilDiv_mul_ge n (csqrt_pos hn)

theorem DimensionedInv.cells_eq (h : DimensionedInv s) : cells s.nint = s.w * s.h := by
  rw [cells, ← h.dimsEq]

/-- I10 whole: what the dimensions are bounds them. -/
theorem DimensionedInv.dimensionedFacts (h : DimensionedInv s) :
    (s.w, s.h) = dims s.nint ∧ 1 ≤ s.w ∧ 1 ≤ s.h ∧ s.nint ≤ s.w * s.h ∧ s.w * s.h ≤ s.cfg.gridCap := by
  have hn := h.nint_ge
  have hge : s.nint ≤ s.w * s.h := h.cells_eq ▸ cells_ge (by omega)
  have hpos : 0 < s.w * s.h := by omega
  exact ⟨h.dimsEq, Nat.pos_of_mul_pos_right hpos, Nat.pos_of_mul_pos_left hpos, hge, h.gridFits⟩

/-! ## What is enough for the invariants, phase by phase

Each lemma gives the clauses that speak of its phases; the others are about other phases. -/

/-- IDLE to DIM: the clauses that these phases share, and I4 to I9 for the phase of each. -/
theorem Inv.intro_unlaid (hb : BufferInv s) (he : NoError s)
    (hp : s.phase = phIdle ∨ s.phase = phPack ∨ s.phase = phEncode ∨ s.phase = phDim) (hu : UnlaidInv s)
    (hidle : s.phase = phIdle → s.nbits = 0 ∧ s.nint = 0 ∧ s.idx = 0)
    (hpack : s.phase = phPack → 1 ≤ s.plen ∧ s.idx = s.nbits ∧ s.nbits ≤ 8 * s.plen ∧ 8 * s.plen ≤ s.cfg.bitsCap ∧
      s.nint = 0 ∧ s.bitSeq = (pack s.payload).take s.nbits)
    (hencode : s.phase = phEncode → PackedInv s ∧
      s.idx = s.nint ∧ s.nint ≤ s.nbits ∧ s.nbits ≤ s.cfg.intCap ∧ s.intSeq = encodeBits s.bitSeq s.drawn)
    (hdim : s.phase = phDim → EncodedInv s ∧ s.idx = 0) : Inv s := by
  have hfill : s.phase ≠ phFill := by obtain hp | hp | hp | hp := hp <;> simp [hp]
  have hlaid : ¬ s.laidOut := by obtain hp | hp | hp | hp := hp <;> simp [State.laidOut, hp]
  have hsink : ¬ s.sinkFailed := by obtain hp | hp | hp | hp := hp <;> simp [State.sinkFailed, hp]
  have hcnt : s.outcnt = 0 := by rw [hb.outCount, hu.outEmpty, List.length_nil]
  obtain ⟨_, _, _, _, _, _, _, _⟩ := hb
  constructor
  case payFits | canonical | payWritten | bitsWritten | intWritten | drawnCount | askedBounds | outCount => assumption
  case gridWritten => exact State.gridLen_of_unlaid hfill hlaid hsink ▸ hu.gridEmpty
  case idle =>
    intro h
    obtain ⟨hnbits, hnint, hidx⟩ := hidle h
    exact ⟨hnbits, hnint, hu.noDims.1, hu.noDims.2, hidx, hcnt, hu.outEmpty⟩
  case packing => exact hpack
  case packedBits =>
    intro hpacked
    obtain hp | hp | hp | hp := hp
    · simp [State.packed, hp] at hpacked
    · simp [State.packed, hp] at hpacked
    · exact (hencode hp).1.packedFacts
    · exact (hdim hp).1.packedFacts
  case encoding => exact fun h => (hencode h).2
  case encodedInts =>
    intro hencoded
    obtain hp | hp | hp | hp := hp
    · simp [State.encoded, hp] at hencoded
    · simp [State.encoded, hp] at hencoded
    · simp [State.encoded, hp] at hencoded
    · exact (hdim hp).1.encodedFacts
  case undimensioned => exact fun _ => hu.noDims
  case dimIndex => exact fun h => (hdim h).2
  case outEmpty => exact fun _ _ => hu.outEmpty
  case failedPrefix => exact fun h => absurd h hsink
  case filled => exact fun h => absurd h hlaid
  case indexInLimit =>
    intro h
    obtain hp | hp | hp | hp := hp
    · simp [hp] at h
    · obtain ⟨-, hidx, hle, -⟩ := hpack hp
      rw [limit_pack hp]; omega
    · obtain ⟨-, hidx, hle, -⟩ := hencode hp
      rw [limit_encode hp]; omega
    · simp [hp] at h
  all_goals obtain hp | hp | hp | hp := hp <;> simp [hp, he.err, he.errStage, errorPairs, State.dimensioned]

/-- FILL: I10 and I11. -/
theorem Inv.intro_fill (hb : BufferInv s) (he : NoError s) (hp : s.phase = phFill) (hk : DimensionedInv s)
    (hout : s.out = []) (hgrid : s.grid.writtenBelow s.idx)
    (hfill : s.idx ≤ s.w * s.h ∧ Memory.contents s.grid s.idx = (layoutCells s.intSeq).take s.idx) : Inv s := by
  have hidx : s.idx ≤ limit s := by rw [limit_fill hp]; exact hfill.1
  obtain ⟨_, _, _, _, _, _, _, _⟩ := hb
  constructor
  case payFits | canonical | payWritten | bitsWritten | intWritten | drawnCount | askedBounds | outCount => assumption
  case gridWritten => exact State.gridLen_of_fill hp ▸ hgrid
  case packedBits => exact fun _ => hk.packedFacts
  case encodedInts => exact fun _ => hk.encodedFacts
  case raster => exact fun _ => hk.dimensionedFacts
  case filling => exact fun _ => hfill
  case outEmpty => exact fun _ _ => hout
  case indexInLimit => exact fun _ => hidx
  all_goals simp [hp, he.err, he.errStage, errorPairs, State.laidOut, State.sinkFailed]

/-- HEADER to DONE: the clauses that these phases share; I13, I14 and I15 are left to each. -/
theorem Inv.intro_laidOut (hb : BufferInv s) (he : NoError s)
    (hp : s.phase = phHeader ∨ s.phase = phBody ∨ s.phase = phDone) (hk : FilledInv s)
    (hhead : s.phase = phHeader →
      s.idx ≤ hlen s.w s.h ∧ s.outcnt = s.idx ∧ s.out = (header s.w s.h).take s.idx)
    (hbody : s.phase = phBody → s.idx ≤ s.w * s.h ∧ s.outcnt = hlen s.w s.h + s.idx ∧
      s.out = header s.w s.h ++ Memory.contents s.grid s.idx)
    (hdone : s.phase = phDone → s.idx = s.w * s.h ∧ s.outcnt = hlen s.w s.h + s.w * s.h ∧ s.out = s.rasterFrame) :
    Inv s := by
  have hlaid : s.laidOut := by obtain hp | hp | hp := hp <;> simp [State.laidOut, hp]
  obtain ⟨_, _, _, _, _, _, _, _⟩ := hb
  constructor
  case payFits | canonical | payWritten | bitsWritten | intWritten | drawnCount | askedBounds | outCount => assumption
  case gridWritten => exact State.gridLen_of_laidOut hlaid ▸ hk.gridWritten
  case packedBits => exact fun _ => hk.packedFacts
  case encodedInts => exact fun _ => hk.encodedFacts
  case raster => exact fun _ => hk.dimensionedFacts
  case filled => exact fun _ => hk.rasterEq
  case heading => exact hhead
  case sending => exact hbody
  case done => exact hdone
  case outEmpty => exact fun hunlaid => absurd hlaid hunlaid
  case indexInLimit =>
    intro h
    obtain hp | hp | hp := hp
    · rw [limit_header hp]; exact (hhead hp).1
    · rw [limit_body hp]; exact (hbody hp).1
    · simp [hp] at h
  all_goals obtain hp | hp | hp := hp <;> simp [hp, he.err, he.errStage, errorPairs, State.sinkFailed]

/-- ERROR, from an error raised before HEADER (R221): no cell of GRID is written and nothing is sent. -/
theorem Inv.intro_raise_early {e : ErrKind} {stage : PhaseCode} (hb : BufferInv s) (hgrid : s.grid.writtenBelow 0)
    (hout : s.out = []) (hpair : (e.code.toNat, stage.toNat) ∈ errorPairs) (hstage : stage.toNat ≤ 3) :
    Inv (s.raise e stage) := by
  have hlaid : ¬ (s.raise e stage).laidOut := by simp [State.laidOut]
  have hsink : ¬ (s.raise e stage).sinkFailed := fun ⟨_, hsink⟩ => by simp at hsink; bv_omega
  obtain ⟨_, _, _, _, _, _, _, _⟩ := hb
  constructor
  case payFits | canonical | payWritten | bitsWritten | intWritten | drawnCount | askedBounds | outCount => assumption
  case errorPair => exact hpair
  case gridWritten => exact State.gridLen_of_unlaid (by simp) hlaid hsink ▸ hgrid
  case outEmpty => exact fun _ _ => hout
  case failedPrefix => exact fun h => absurd h hsink
  all_goals simp [State.packed, State.encoded, State.dimensioned, State.laidOut]

theorem State.rasterFrame_eq (s : State) : s.rasterFrame = header s.w s.h ++ s.rasterCells := rfl

theorem State.rasterFrame_length (s : State) : s.rasterFrame.length = hlen s.w s.h + s.w * s.h := by
  rw [State.rasterFrame_eq, List.length_append, header_length, State.rasterCells, Memory.contents_length]

/-- ERROR, from a byte that the sink refused (R193): OUT is the frame cut before that byte. -/
theorem Inv.intro_raise_io {stage : PhaseCode} (hb : BufferInv s) (hstage : stage = phHeader ∨ stage = phBody)
    (hgrid : s.grid.writtenBelow (s.w * s.h)) (hlt : s.outcnt < hlen s.w s.h + s.w * s.h)
    (hout : s.out = s.rasterFrame.take s.outcnt) : Inv (s.raise .io stage) := by
  have hsink : (s.raise .io stage).sinkFailed := ⟨rfl, hstage⟩
  obtain ⟨_, _, _, _, _, _, _, _⟩ := hb
  constructor
  case payFits | canonical | payWritten | bitsWritten | intWritten | drawnCount | askedBounds | outCount => assumption
  case errorPair => obtain rfl | rfl := hstage <;> simp [ErrKind.code, errorPairs]
  case gridWritten => exact State.gridLen_of_sinkFailed hsink ▸ hgrid
  case outEmpty => exact fun _ h => absurd hsink h
  case failedPrefix => exact fun _ => ⟨(State.rasterFrame_length s).symm ▸ hlt, hout⟩
  all_goals simp [State.packed, State.encoded, State.dimensioned, State.laidOut]

/-- The invariants do not speak of the host's last answer (log 11). -/
theorem Inv.withReply (hinv : Inv s) (r : Option Reply) : Inv { s with reply := r } := { hinv with }

/-! ## Reset -/

/-- R45: a machine right after reset, whatever its capacities, its environment and the host's last answer. -/
theorem Inv.resetWith (cfg : Config.Params) (host : List HostTurn) (reply : Option Reply) (draws : List Byte)
    (sink : List SinkAnswer) :
    Inv { State.resetWith cfg with host := host, reply := reply, draws := draws, sink := sink } := by
  apply Inv.intro_unlaid
  case hb => exact ⟨Nat.zero_le _, ⟨rfl, rfl, rfl, rfl⟩, by simp [Memory.writtenBelow], by simp [Memory.writtenBelow],
    by simp [Memory.writtenBelow], rfl, rfl, rfl⟩
  case he => exact ⟨rfl, rfl⟩
  case hp => exact .inl rfl
  case hu => exact ⟨⟨rfl, rfl⟩, by simp [Memory.writtenBelow], rfl⟩
  case hidle => exact fun _ => ⟨rfl, rfl, rfl⟩
  all_goals simp

/-- Settles O51: State.reset is the case of an empty environment. -/
theorem resetMeetsInvariants : Obligations.ResetMeetsInvariants :=
  ⟨Inv.resetWith Config.built [] none [] [], fun cfg host draws sink => Inv.resetWith cfg host none draws sink⟩

end Sys2Proof.Machine
end

section
/-! Proofs of the sequencer family (`40_sequencer.md`), part 2: every step keeps the invariants (R130). -/

namespace Sys2Proof.Machine

variable {s t : State}

/-! ## Stage PACK -/

theorem Memory.contents_getElem?_of_read {n i len : Nat} {m : Memory n} {v : BitVec n} (h : i < len)
    (hv : Memory.read m i = some v) : (Memory.contents m len)[i]? = some v := by
  rw [Memory.contents_getElem? m h, hv, Option.getD_some]

/-- The bit that PACK.BIT takes is the next one of `pack` (R140, R143). -/
theorem pack_payload_getElem? {i : Nat} {b : Byte} (h : i < 8 * s.plen) (hb : Memory.read s.pay (i / 8) = some b) :
    (pack s.payload)[i]? = some (bitOf b (7 - i % 8)) := by
  rw [pack_getElem? _ (by simpa [State.payload] using h), State.payload,
    Memory.contents_getElem?_of_read (by omega) hb, Option.map_some]

theorem pack_payload_length (s : State) : (pack s.payload).length = 8 * s.plen := by
  simp [State.payload]

theorem Inv.packBit_keeps (hinv : Inv s) (hp : s.phase = phPack) (hidx : s.idx < limit s)
    (h : execPackBit s = .next t) : Inv t := by
  rw [limit_pack hp] at hidx
  obtain ⟨hplen, hnbits, -, hcap, hnint, hseq⟩ := hinv.packing hp
  obtain ⟨byt, hbyt, -, rfl⟩ := execPackBit_next h
  have hb := hinv.buffers
  have hu := hinv.unlaid (by simp [hp])
  obtain ⟨hpay, hbits, hint, hgrid⟩ := hb.canonical
  refine Inv.intro_unlaid ?_ { hinv.noError (by simp [hp]) with } (by simp [hp]) { hu with } (by simp [hp])
    (fun _ => ?_) (by simp [hp]) (by simp [hp])
  · exact { hb with
      canonical := ⟨hpay, Memory.write_wf hbits, hint, hgrid⟩
      bitsWritten := Memory.written_write_next _ (hnbits ▸ hb.bitsWritten) }
  · refine ⟨hplen, rfl, hidx, hcap, hnint, ?_⟩
    change Memory.contents (Memory.write s.bits s.idx _) (s.idx + 1) = (pack s.payload).take (s.idx + 1)
    rw [Memory.contents_write_next, List.take_add_one, pack_payload_getElem? hidx hbyt, hnbits, ← hseq]
    rfl

theorem Inv.packEnd_keeps (hinv : Inv s) (hp : s.phase = phPack) (hidx : limit s ≤ s.idx)
    (h : execPackEnd s = .next t) : Inv t := by
  rw [limit_pack hp] at hidx
  obtain ⟨hplen, hnbits, hle, -, hnint, hseq⟩ := hinv.packing hp
  have hb := hinv.buffers
  have hu := hinv.unlaid (by simp [hp])
  have hall : s.nbits = 8 * s.plen := by omega
  obtain ⟨-, rfl⟩ | ⟨hcap, rfl⟩ := execPackEnd_next h
  · exact Inv.intro_raise_early hb hu.gridEmpty hu.outEmpty (by decide) (by decide)
  · have hpacked : s.bitSeq = pack s.payload := by
      rw [hseq, List.take_of_length_le (by rw [pack_payload_length, hall])]
    have hdrawn : s.drawn = [] := List.eq_nil_of_length_eq_zero (hb.drawnCount.trans hnint)
    refine Inv.intro_unlaid ?_ { hinv.noError (by simp [hp]) with } (by simp) { hu with } (by simp) (by simp)
      (fun _ => ⟨⟨hplen, hall, hpacked⟩, rfl, Nat.zero_le _, hcap, ?_⟩) (by simp)
    · exact { hb with
        intWritten := hnint ▸ hb.intWritten
        drawnCount := hnint ▸ hb.drawnCount
        askedBounds := hnint ▸ hb.askedBounds }
    · change [] = List.zipWith symbol s.bitSeq s.drawn
      rw [hdrawn, List.zipWith_nil_right]

/-! ## Stage ENCODE -/

theorem Inv.encSym_keeps (hinv : Inv s) (hp : s.phase = phEncode) (hidx : s.idx < limit s)
    (h : execEncSym s = .next t) : Inv t := by
  rw [limit_encode hp] at hidx
  obtain ⟨hnint, -, hcap, hseq⟩ := hinv.encoding hp
  obtain ⟨-, rfl⟩ | ⟨c, rest, b, -, hbit, -, rfl⟩ := execEncSym_next h
  · exact hinv
  have hb := hinv.buffers
  have hu := hinv.unlaid (by simp [hp])
  have hk := hinv.packedInv (by simp [State.packed, hp])
  obtain ⟨hpay, hbits, hint, hgrid⟩ := hb.canonical
  have hdrawn : s.drawn.length = s.idx := by rw [hb.drawnCount, hnint]
  have hnext : s.bitSeq[s.idx]? = some b := Memory.contents_getElem?_of_read hidx hbit
  refine Inv.intro_unlaid ?_ { hinv.noError (by simp [hp]) with } (by simp [hp]) { hu with } (by simp [hp])
    (by simp [hp]) (fun _ => ⟨{ hk with }, rfl, hidx, hcap, ?_⟩) (by simp [hp])
  · exact { hb with
      canonical := ⟨hpay, hbits, Memory.write_wf hint, hgrid⟩
      intWritten := Memory.written_write_next _ (hnint ▸ hb.intWritten)
      drawnCount := by simp [hdrawn]
      askedBounds := by simp [hb.askedBounds, hnint, List.replicate_succ'] }
  · change Memory.contents (Memory.write s.int s.idx _) (s.idx + 1) = encodeBits s.bitSeq (s.drawn ++ [c])
    rw [Memory.contents_write_next, encodeBits_append _ _ c (hdrawn ▸ hnext), hnint, ← hseq]
    rfl

theorem Inv.encEnd_keeps (hinv : Inv s) (hp : s.phase = phEncode) (hidx : limit s ≤ s.idx)
    (h : execEncEnd s = .next t) : Inv t := by
  rw [limit_encode hp] at hidx
  obtain ⟨hnint, hle, -, hseq⟩ := hinv.encoding hp
  obtain rfl := execEncEnd_next h
  have hk : EncodedInv s := ⟨hinv.packedInv (by simp [State.packed, hp]), by omega, hseq⟩
  exact Inv.intro_unlaid { hinv.buffers with } { hinv.noError (by simp [hp]) with } (by simp)
    { hinv.unlaid (by simp [hp]) with } (by simp) (by simp) (by simp) (fun _ => ⟨{ hk with }, rfl⟩)

/-! ## Stage RasterLayout -/

theorem Inv.layDim_keeps (hinv : Inv s) (hp : s.phase = phDim) (h : execLayDim s = .next t) : Inv t := by
  have hb := hinv.buffers
  have hu := hinv.unlaid (by simp [hp])
  have hk := hinv.encodedInv (by simp [State.encoded, hp])
  obtain ⟨hzero, -⟩ | ⟨-, -, rfl⟩ | ⟨-, hfits, rfl⟩ := execLayDim_next h
  · have hpos := hk.nint_ge
    omega
  · exact Inv.intro_raise_early { hb with } hu.gridEmpty hu.outEmpty (by decide) (by decide)
  · exact Inv.intro_fill { hb with } { hinv.noError (by simp [hp]) with } rfl ⟨{ hk with }, rfl, hfits⟩ hu.outEmpty
      hu.gridEmpty ⟨Nat.zero_le _, rfl⟩

theorem State.intSeq_length (s : State) : s.intSeq.length = s.nint := Memory.contents_length ..

/-- The cell that LAY.CELL writes is the next one of the raster (R173, R178). -/
theorem DimensionedInv.layoutCells_getElem? (hk : DimensionedInv s) {g : Byte} (hidx : s.idx < s.w * s.h)
    (hg : (s.idx < s.nint ∧ ∃ v, Memory.read s.int s.idx = some v ∧ g = cellOf v) ∨
      (s.nint ≤ s.idx ∧ g = Config.sentinel)) : (layoutCells s.intSeq)[s.idx]? = some g := by
  obtain ⟨hdata, v, hv, rfl⟩ | ⟨hpad, rfl⟩ := hg
  · rw [layoutCells_getElem?_data (by rwa [State.intSeq_length]), State.intSeq,
      Memory.contents_getElem?_of_read hdata hv, Option.map_some]
  · exact layoutCells_getElem?_pad (by rwa [State.intSeq_length]) (by rwa [State.intSeq_length, hk.cells_eq])

theorem DimensionedInv.layoutCells_length (hk : DimensionedInv s) : (layoutCells s.intSeq).length = s.w * s.h := by
  obtain ⟨-, -, -, hge, -⟩ := hk.dimensionedFacts
  simp only [layoutCells, List.length_append, List.length_map, List.length_replicate, State.intSeq_length, hk.cells_eq]
  omega

theorem Inv.layCell_keeps (hinv : Inv s) (hp : s.phase = phFill) (hidx : s.idx < limit s)
    (h : execLayCell s = .next t) : Inv t := by
  rw [limit_fill hp] at hidx
  obtain ⟨-, hcells⟩ := hinv.filling hp
  obtain ⟨g, hg, -, rfl⟩ := execLayCell_next h
  have hb := hinv.buffers
  have hk := hinv.dimensionedInv (by simp [State.dimensioned, hp])
  obtain ⟨hpay, hbits, hint, hgrid⟩ := hb.canonical
  refine Inv.intro_fill ?_ { hinv.noError (by simp [hp]) with } hp { hk with }
    (hinv.outEmpty (by simp [State.laidOut, hp]) (by simp [State.sinkFailed, hp])) ?_ ⟨hidx, ?_⟩
  · exact { hb with canonical := ⟨hpay, hbits, hint, Memory.write_wf hgrid⟩ }
  · exact Memory.written_write_next _ (State.gridLen_of_fill hp ▸ hinv.gridWritten)
  · change Memory.contents (Memory.write s.grid s.idx g) (s.idx + 1) = (layoutCells s.intSeq).take (s.idx + 1)
    rw [Memory.contents_write_next, List.take_add_one, hk.layoutCells_getElem? hidx hg, hcells]
    rfl

theorem Inv.layEnd_keeps (hinv : Inv s) (hp : s.phase = phFill) (hidx : limit s ≤ s.idx)
    (h : execLayEnd s = .next t) : Inv t := by
  rw [limit_fill hp] at hidx
  obtain ⟨hle, hcells⟩ := hinv.filling hp
  obtain rfl := execLayEnd_next h
  have hb := hinv.buffers
  have hk := hinv.dimensionedInv (by simp [State.dimensioned, hp])
  have hall : s.idx = s.w * s.h := by omega
  have hout : s.out = [] := hinv.outEmpty (by simp [State.laidOut, hp]) (by simp [State.sinkFailed, hp])
  have hgrid : s.grid.writtenBelow (s.w * s.h) := hall ▸ State.gridLen_of_fill hp ▸ hinv.gridWritten
  have hraster : s.rasterCells = layoutCells s.intSeq := by
    rw [State.rasterCells, ← hall, hcells, List.take_of_length_le (by rw [hk.layoutCells_length, hall])]
  have hf : FilledInv s := ⟨hk, hgrid, hraster⟩
  exact Inv.intro_laidOut { hb with } { hinv.noError (by simp [hp]) with } (by simp) { hf with }
    (fun _ => ⟨Nat.zero_le _, by simp [hb.outCount, hout], hout⟩) (by simp) (by simp)

/-! ## Stage RasterSerializer -/

theorem Memory.take_contents {n : Nat} (m : Memory n) {i len : Nat} (h : i ≤ len) :
    (Memory.contents m len).take i = Memory.contents m i := by
  rw [Memory.contents, ← List.map_take, List.take_range, Nat.min_eq_left h, Memory.contents]

theorem Inv.serHdr_keeps (hinv : Inv s) (hp : s.phase = phHeader) (hidx : s.idx < limit s)
    (h : execSerHdr s = .next t) : Inv t := by
  rw [limit_header hp] at hidx
  obtain ⟨-, hcnt, hout⟩ := hinv.heading hp
  have hb := hinv.buffers
  have hk := hinv.filledInv (by simp [State.laidOut, hp])
  obtain ⟨b, hbyte, h⟩ := execSerHdr_next h
  obtain ⟨-, rfl⟩ | ⟨rest, -, rfl⟩ | ⟨rest, -, rfl⟩ := emit_next h
  · exact hinv
  · refine Inv.intro_laidOut { hb with outCount := by simp [hb.outCount] } { hinv.noError (by simp [hp]) with }
      (by simp [hp]) { hk with } (fun _ => ⟨hidx, by simp [hcnt], ?_⟩) (by simp [hp]) (by simp [hp])
    change s.out ++ [b] = (header s.w s.h).take (s.idx + 1)
    rw [List.take_add_one, hbyte, hout]
    rfl
  · have hlt : s.outcnt < hlen s.w s.h + s.w * s.h := by omega
    have hsent : s.out = s.rasterFrame.take s.outcnt := by
      rw [State.rasterFrame_eq, List.take_append_of_le_length (by rw [header_length]; omega), hcnt, hout]
    exact Inv.intro_raise_io { hb with } (.inl rfl) hk.gridWritten hlt hsent

theorem Inv.serHend_keeps (hinv : Inv s) (hp : s.phase = phHeader) (hidx : limit s ≤ s.idx)
    (h : execSerHend s = .next t) : Inv t := by
  rw [limit_header hp] at hidx
  obtain ⟨hle, hcnt, hout⟩ := hinv.heading hp
  obtain rfl := execSerHend_next h
  have hk := hinv.filledInv (by simp [State.laidOut, hp])
  refine Inv.intro_laidOut { hinv.buffers with } { hinv.noError (by simp [hp]) with } (by simp) { hk with } (by simp)
    (fun _ => ⟨Nat.zero_le _, ?_, ?_⟩) (by simp)
  · simp only [State.goto_outcnt, State.goto_w, State.goto_h, State.goto_idx]
    omega
  · change s.out = header s.w s.h ++ []
    rw [hout, List.take_of_length_le (by rwa [header_length]), List.append_nil]

theorem Inv.serPix_keeps (hinv : Inv s) (hp : s.phase = phBody) (hidx : s.idx < limit s)
    (h : execSerPix s = .next t) : Inv t := by
  rw [limit_body hp] at hidx
  obtain ⟨-, hcnt, hout⟩ := hinv.sending hp
  have hb := hinv.buffers
  have hk := hinv.filledInv (by simp [State.laidOut, hp])
  obtain ⟨b, hbyte, h⟩ := execSerPix_next h
  obtain ⟨-, rfl⟩ | ⟨rest, -, rfl⟩ | ⟨rest, -, rfl⟩ := emit_next h
  · exact hinv
  · refine Inv.intro_laidOut { hb with outCount := by simp [hb.outCount] } { hinv.noError (by simp [hp]) with }
      (by simp [hp]) { hk with } (by simp [hp]) (fun _ => ⟨hidx, ?_, ?_⟩) (by simp [hp])
    · simp only [State.accepted_outcnt, State.accepted_w, State.accepted_h, State.accepted_idx]
      omega
    · change s.out ++ [b] = header s.w s.h ++ Memory.contents s.grid (s.idx + 1)
      rw [Memory.contents_succ, hbyte, hout, List.append_assoc, Option.getD_some]
  · have hlt : s.outcnt < hlen s.w s.h + s.w * s.h := by omega
    have hsent : s.out = s.rasterFrame.take s.outcnt := by
      rw [State.rasterFrame_eq, hcnt, ← header_length, List.take_length_add_append, State.rasterCells,
        Memory.take_contents s.grid hidx.le, hout]
    exact Inv.intro_raise_io { hb with } (.inr rfl) hk.gridWritten hlt hsent

theorem Inv.serEnd_keeps (hinv : Inv s) (hp : s.phase = phBody) (hidx : limit s ≤ s.idx)
    (h : execSerEnd s = .next t) : Inv t := by
  rw [limit_body hp] at hidx
  obtain ⟨hle, hcnt, hout⟩ := hinv.sending hp
  obtain rfl := execSerEnd_next h
  have hk := hinv.filledInv (by simp [State.laidOut, hp])
  have hall : s.idx = s.w * s.h := by omega
  exact Inv.intro_laidOut { hinv.buffers with } { hinv.noError (by simp [hp]) with } (by simp) { hk with } (by simp)
    (by simp) (fun _ => ⟨hall, hall ▸ hcnt, hall ▸ hout⟩)

/-- Every micro-operation that the dispatch names keeps the invariants. -/
theorem Inv.micro_keeps {i : Instr} (hinv : Inv s) (hd : Dispatches s i) (h : exec i s = .next t) : Inv t := by
  cases hd with
  | packBit hp hidx => exact hinv.packBit_keeps hp hidx h
  | packEnd hp hidx => exact hinv.packEnd_keeps hp hidx h
  | encSym hp hidx => exact hinv.encSym_keeps hp hidx h
  | encEnd hp hidx => exact hinv.encEnd_keeps hp hidx h
  | layDim hp => exact hinv.layDim_keeps hp h
  | layCell hp hidx => exact hinv.layCell_keeps hp hidx h
  | layEnd hp hidx => exact hinv.layEnd_keeps hp hidx h
  | serHdr hp hidx => exact hinv.serHdr_keeps hp hidx h
  | serHend hp hidx => exact hinv.serHend_keeps hp hidx h
  | serPix hp hidx => exact hinv.serPix_keeps hp hidx h
  | serEnd hp hidx => exact hinv.serEnd_keeps hp hidx h

/-! ## The host's transactions -/

theorem Inv.load_keeps {d : Byte} (hinv : Inv s) (h : execLoad d s = .next t) : Inv t := by
  have hb := hinv.buffers
  obtain ⟨-, rfl⟩ | ⟨hp, -, rfl⟩ | ⟨hp, hcap, rfl⟩ := execLoad_next h
  · exact hinv.withReply _
  · have hu := hinv.unlaid (by simp [hp])
    exact (Inv.intro_raise_early hb hu.gridEmpty hu.outEmpty (by decide) (by decide)).withReply _
  · obtain ⟨hnbits, hnint, -, -, hidx, -, -⟩ := hinv.idle hp
    obtain ⟨hpay, hbits, hint, hgrid⟩ := hb.canonical
    refine Inv.intro_unlaid ?_ { hinv.noError (by simp [hp]) with } (by simp [hp]) { hinv.unlaid (by simp [hp]) with }
      (fun _ => ⟨hnbits, hnint, hidx⟩) (by simp [hp]) (by simp [hp]) (by simp [hp])
    exact { hb with
      payFits := hcap
      canonical := ⟨Memory.write_wf hpay, hbits, hint, hgrid⟩
      payWritten := Memory.written_write_next _ hb.payWritten }

theorem Inv.start_keeps (hinv : Inv s) (h : execStart s = .next t) : Inv t := by
  have hb := hinv.buffers
  obtain ⟨-, rfl⟩ | ⟨hp, -, rfl⟩ | ⟨hp, -, -, rfl⟩ | ⟨hp, hplen, hcap, rfl⟩ := execStart_next h
  · exact hinv.withReply _
  · have hu := hinv.unlaid (by simp [hp])
    exact (Inv.intro_raise_early hb hu.gridEmpty hu.outEmpty (by decide) (by decide)).withReply _
  · have hu := hinv.unlaid (by simp [hp])
    exact (Inv.intro_raise_early hb hu.gridEmpty hu.outEmpty (by decide) (by decide)).withReply _
  · obtain ⟨hnbits, hnint, -⟩ := hinv.idle hp
    exact Inv.intro_unlaid { hb with bitsWritten := hnbits ▸ hb.bitsWritten } { hinv.noError (by simp [hp]) with }
      (by simp) { hinv.unlaid (by simp [hp]) with } (by simp)
      (fun _ => ⟨Nat.pos_of_ne_zero hplen, rfl, Nat.zero_le _, hcap, hnint, rfl⟩) (by simp) (by simp)

theorem Inv.rd_keeps {r : RegNum} (hinv : Inv s) (h : execRd r s = .next t) : Inv t := by
  obtain ⟨n, -, rfl⟩ | ⟨-, rfl⟩ := execRd_next h
  · exact hinv.withReply _
  · exact hinv.withReply _

/-- Settles O52: the micro-operations by the dispatch, the host's transactions, and a turn that picks no operation. -/
theorem everyStepKeepsInvariants : Obligations.EveryStepKeepsInvariants := by
  intro s t hinv h
  obtain ⟨i, hdec, h⟩ | ⟨e, -, h⟩ := step_next h
  · obtain hd | rfl | ⟨d, rfl⟩ | rfl | ⟨r, rfl⟩ | rfl := decode_nextSelector_ok hdec
    · exact hinv.takeTurn.micro_keeps hd.takeTurn h
    · exact execNop_next h ▸ hinv.takeTurn.withReply _
    · exact hinv.takeTurn.load_keeps h
    · exact hinv.takeTurn.start_keeps h
    · exact hinv.takeTurn.rd_keeps h
    · exact execRst_next h ▸ Inv.resetWith ..
  · obtain ⟨-, rfl⟩ | ⟨-, rfl⟩ | ⟨-, rfl⟩ := noOperation_next h
    · exact hinv.takeTurn
    · exact hinv.takeTurn.withReply _
    · exact hinv.takeTurn

end Sys2Proof.Machine
end

section
/-! Proofs of the sequencer family (`40_sequencer.md`), part 3: the dispatch (R121), its quiescent phases (R19, R129)
and the ports that have not answered (R126). -/

namespace Sys2Proof.Machine

variable {s : State} {i : Instr}

theorem seqTurn_iff : seqTurn s ↔ s.host = [] ∨ s.host.head? = some .sequencer := by
  unfold seqTurn
  cases s.host <;> simp

/-- A micro-operation is enabled in PACK to BODY only (R121). -/
theorem Dispatches.busy (h : Dispatches s i) : 1 ≤ s.phase.toNat ∧ s.phase.toNat ≤ 6 := by
  cases h with
  | packBit hp | packEnd hp | encSym hp | encEnd hp | layDim hp | layCell hp | layEnd hp | serHdr hp | serHend hp
  | serPix hp | serEnd hp => simp [hp]

theorem decode_seqSelector_ne_ok (h : s.phase = phIdle ∨ 7 ≤ s.phase.toNat) (i : Instr) :
    decode (seqSelector s) ≠ .ok i := by
  intro hdec
  obtain ⟨hlo, hhi⟩ := (decode_seqSelector_ok_iff.1 hdec).busy
  bv_omega

/-- Settles O6: a row of the dispatch for each phase, below the limit and at it. -/
theorem dispatchByPhaseAndIndex : Obligations.DispatchByPhaseAndIndex := by
  intro s hturn
  rw [nextSelector_of_seqTurn (seqTurn_iff.2 hturn)]
  refine ⟨fun hp => ?_, fun hp => ?_, fun hp => ?_, fun hp => ?_, fun hp => ?_, fun hp => ?_, decode_seqSelector_ne_ok⟩
  · rw [← limit_pack hp, decode_seqSelector_ok_iff]
    split
    · next hidx => exact .packBit hp hidx
    · next hidx => exact .packEnd hp (Nat.le_of_not_lt hidx)
  · rw [← limit_encode hp, decode_seqSelector_ok_iff]
    split
    · next hidx => exact .encSym hp hidx
    · next hidx => exact .encEnd hp (Nat.le_of_not_lt hidx)
  · exact decode_seqSelector_ok_iff.2 (.layDim hp)
  · rw [← limit_fill hp, decode_seqSelector_ok_iff]
    split
    · next hidx => exact .layCell hp hidx
    · next hidx => exact .layEnd hp (Nat.le_of_not_lt hidx)
  · rw [← limit_header hp, decode_seqSelector_ok_iff]
    split
    · next hidx => exact .serHdr hp hidx
    · next hidx => exact .serHend hp (Nat.le_of_not_lt hidx)
  · rw [← limit_body hp, decode_seqSelector_ok_iff]
    split
    · next hidx => exact .serPix hp hidx
    · next hidx => exact .serEnd hp (Nat.le_of_not_lt hidx)

/-- Settles O7: where the sequencer's selector picks nothing, the phase tells which of the two errors it is. -/
theorem quiescentTurnChangesNothing : Obligations.QuiescentTurnChangesNothing := by
  intro s hturn
  have hsel := nextSelector_of_seqTurn (seqTurn_iff.2 hturn)
  cases hdec : decode (seqSelector s) with
  | ok i =>
    obtain ⟨hlo, hhi⟩ := (decode_seqSelector_ok_iff.1 hdec).busy
    exact ⟨fun hp => by bv_omega, fun hp => by omega⟩
  | error e =>
    rw [step_of_error (hsel ▸ hdec)]
    obtain ⟨rfl, hquiet⟩ | ⟨rfl, hreserved⟩ := decode_seqSelector_error hdec
    · exact ⟨fun _ => rfl, fun hp => by bv_omega⟩
    · exact ⟨fun hp => by bv_omega, fun _ => rfl⟩

theorem State.quiescent_iff : s.quiescent = true ↔ s.phase = phIdle ∨ s.phase = phDone ∨ s.phase = phError := by
  simp [State.quiescent]

theorem State.final_iff : s.final = true ↔ s.phase = phDone := by simp [State.final]

theorem State.failed_iff : s.failed = true ↔ s.phase = phError := by simp [State.failed]

/-- With a legal PHASE no micro-operation is enabled exactly in IDLE, DONE and ERROR (R19, R121). -/
theorem State.quiescent_iff_no_micro (hlegal : s.phase.toNat ≤ 8) :
    s.quiescent = true ↔ ∀ i, decode (seqSelector s) ≠ .ok i := by
  rw [State.quiescent_iff]
  constructor
  · exact fun hquiet => decode_seqSelector_ne_ok (by bv_omega)
  · intro hnone
    cases hdec : decode (seqSelector s) with
    | ok i => exact absurd hdec (hnone i)
    | error e =>
      obtain ⟨-, hquiet⟩ | ⟨-, hreserved⟩ := decode_seqSelector_error hdec
      · exact hquiet
      · omega

/-- Settles O41: the two ends of a run, and the quiescent phases against the dispatch. -/
theorem runEndsAreQuiescent : Obligations.RunEndsAreQuiescent := by
  refine fun s => ⟨State.final_iff, fun hfailed => ?_, State.quiescent_iff_no_micro⟩
  have hp := State.failed_iff.1 hfailed
  exact ⟨State.quiescent_iff.2 (.inr (.inr hp)), by simp [State.final, hp]⟩

/-! ## Ports that have not answered (log 4) -/

theorem draw_of_nil {lo hi : Nat} {k : Byte → State → Result} (h : s.draws = []) : draw lo hi s k = .next s := by
  simp [draw, h]

theorem emit_of_nil {b : Byte} {stage : PhaseCode} (h : s.sink = []) : emit b stage s = .next s := by
  simp [emit, h]

/-- Settles O32: each of the three operations reaches its port, and the port has no answer. -/
theorem unansweredPortsWait : Obligations.UnansweredPortsWait := by
  refine fun s => ⟨fun hdraws => ?_, fun hsink hidx => ?_, fun hsink hcell => ?_⟩
  · change execEncSym s = _
    rw [execEncSym, draw_of_nil hdraws]
  · change execSerHdr s = _
    rw [execSerHdr, List.getElem?_eq_getElem (by simpa using hidx)]
    exact emit_of_nil hsink
  · obtain ⟨b, hb⟩ := Option.isSome_iff_exists.1 hcell
    change memRead .grid s.grid s.idx _ = _
    rw [memRead_of_some hb]
    exact emit_of_nil hsink

end Sys2Proof.Machine
end

section
/-! Proofs of the sequencer family (`40_sequencer.md`), part 4: the changes of PHASE (R122, R123, R127, R128). -/

namespace Sys2Proof.Machine

variable {s t : State} {i : Instr}

/-- The rows of R123 do not speak of the turns to come (log 1). -/
theorem phaseRow_takeTurn : phaseRow i (takeTurn s) t ↔ phaseRow i s t := by
  cases i <;> rfl

/-- A refused byte is the one change of PHASE that Emit makes (R189, R192). -/
theorem emit_changes_phase {b : Byte} {stage : PhaseCode} (h : emit b stage s = .next t) (hne : t.phase ≠ s.phase) :
    s.sink.head? = some .fail ∧ t.phase = phError ∧ t.err = 4 ∧ t.errStage = stage := by
  obtain ⟨-, rfl⟩ | ⟨rest, -, rfl⟩ | ⟨rest, hsink, rfl⟩ := emit_next h
  · exact absurd rfl hne
  · exact absurd rfl hne
  · exact ⟨by rw [hsink, List.head?_cons], rfl, rfl, rfl⟩

theorem execLayDim_phaseRow (hp : s.phase = phDim) (h : execLayDim s = .next t) : phaseRow .layDim s t := by
  obtain ⟨hzero, rfl⟩ | ⟨hpos, hcap, rfl⟩ | ⟨hpos, hcap, rfl⟩ := execLayDim_next h
  · exact ⟨hp, .inl ⟨hzero, rfl, rfl, rfl⟩⟩
  · exact ⟨hp, .inr (.inl ⟨Nat.pos_of_ne_zero hpos, rfl, hcap, rfl, rfl, rfl⟩)⟩
  · exact ⟨hp, .inr (.inr ⟨Nat.pos_of_ne_zero hpos, rfl, hcap, rfl, rfl⟩)⟩

/-- A micro-operation of the dispatch changes PHASE by its own row of R123 only. -/
theorem Dispatches.phaseRow_of_exec (hd : Dispatches s i) (h : exec i s = .next t) (hne : t.phase ≠ s.phase) :
    phaseRow i s t := by
  cases hd with
  | packBit => obtain ⟨byt, -, -, rfl⟩ := execPackBit_next h; exact absurd rfl hne
  | packEnd hp =>
    obtain ⟨hcap, rfl⟩ | ⟨hcap, rfl⟩ := execPackEnd_next h
    · exact ⟨hp, .inl ⟨hcap, rfl, rfl, rfl⟩⟩
    · exact ⟨hp, .inr ⟨hcap, rfl, rfl, rfl⟩⟩
  | encSym => obtain ⟨-, rfl⟩ | ⟨c, rest, b, -, -, -, rfl⟩ := execEncSym_next h <;> exact absurd rfl hne
  | encEnd hp => obtain rfl := execEncEnd_next h; exact ⟨hp, rfl, rfl⟩
  | layDim hp => exact execLayDim_phaseRow hp h
  | layCell => obtain ⟨g, -, -, rfl⟩ := execLayCell_next h; exact absurd rfl hne
  | layEnd hp => obtain rfl := execLayEnd_next h; exact ⟨hp, rfl, rfl⟩
  | serHdr hp => obtain ⟨b, -, h⟩ := execSerHdr_next h; exact ⟨hp, emit_changes_phase h hne⟩
  | serHend hp => obtain rfl := execSerHend_next h; exact ⟨hp, rfl, rfl⟩
  | serPix hp => obtain ⟨b, -, h⟩ := execSerPix_next h; exact ⟨hp, emit_changes_phase h hne⟩
  | serEnd hp => obtain rfl := execSerEnd_next h; exact ⟨hp, rfl, rfl⟩

theorem execLoad_phaseRow {d : Byte} (h : execLoad d s = .next t) (hne : t.phase ≠ s.phase) :
    phaseRow (.load d) s t := by
  obtain ⟨-, rfl⟩ | ⟨hp, hcap, rfl⟩ | ⟨-, -, rfl⟩ := execLoad_next h
  · exact absurd rfl hne
  · exact ⟨hp, hcap, rfl, rfl, rfl⟩
  · exact absurd rfl hne

theorem execStart_phaseRow (h : execStart s = .next t) (hne : t.phase ≠ s.phase) : phaseRow .start s t := by
  obtain ⟨-, rfl⟩ | ⟨hp, hplen, rfl⟩ | ⟨hp, hplen, hcap, rfl⟩ | ⟨hp, hplen, hcap, rfl⟩ := execStart_next h
  · exact absurd rfl hne
  · exact ⟨hp, .inl ⟨hplen, rfl, rfl, rfl⟩⟩
  · exact ⟨hp, .inr (.inl ⟨Nat.pos_of_ne_zero hplen, hcap, rfl, rfl, rfl⟩)⟩
  · exact ⟨hp, .inr (.inr ⟨Nat.pos_of_ne_zero hplen, hcap, rfl, rfl, rfl⟩)⟩

theorem execRst_phaseRow (h : execRst s = .next t) : phaseRow .rst s t := by
  obtain rfl := execRst_next h
  exact ⟨rfl, rfl, rfl, rfl, rfl, rfl, rfl, rfl, rfl, rfl⟩

theorem execRd_phase {r : RegNum} (h : execRd r s = .next t) : t.phase = s.phase := by
  obtain ⟨n, -, rfl⟩ | ⟨-, rfl⟩ := execRd_next h <;> rfl

theorem noOperation_phase {e : DecodeError} (h : noOperation e s = .next t) : t.phase = s.phase := by
  obtain ⟨-, rfl⟩ | ⟨-, rfl⟩ | ⟨-, rfl⟩ := noOperation_next h <;> rfl

/-- Settles O42: the row of the operation that the step performs. -/
theorem phaseChangesAreTabled : Obligations.PhaseChangesAreTabled := by
  intro s t h hne
  obtain ⟨i, hdec, h⟩ | ⟨e, -, h⟩ := step_next h
  · refine ⟨i, hdec, phaseRow_takeTurn.1 ?_⟩
    obtain hd | rfl | ⟨d, rfl⟩ | rfl | ⟨r, rfl⟩ | rfl := decode_nextSelector_ok hdec
    · exact hd.takeTurn.phaseRow_of_exec h hne
    · obtain rfl := execNop_next h; exact absurd rfl hne
    · exact execLoad_phaseRow h hne
    · exact execStart_phaseRow h hne
    · exact absurd (execRd_phase h) hne
    · exact execRst_phaseRow h
  · exact absurd (noOperation_phase h) hne

/-- Every row of R123 but RST's goes to a later phase, ERROR being the last. -/
theorem phaseRow_raises_phase (h : phaseRow i s t) (hrst : i ≠ .rst) : s.phase.toNat < t.phase.toNat := by
  cases i with
  | rst => exact absurd rfl hrst
  | packBit | encSym | layCell | nop | rd r => exact h.elim
  | load d => obtain ⟨hs, -, ht, -⟩ := h; simp [hs, ht]
  | start => obtain ⟨hs, ⟨-, ht, -⟩ | ⟨-, -, ht, -⟩ | ⟨-, -, ht, -⟩⟩ := h <;> simp [hs, ht]
  | packEnd => obtain ⟨hs, ⟨-, ht, -⟩ | ⟨-, ht, -⟩⟩ := h <;> simp [hs, ht]
  | layDim => obtain ⟨hs, ⟨-, ht, -⟩ | ⟨-, -, -, ht, -⟩ | ⟨-, -, -, ht, -⟩⟩ := h <;> simp [hs, ht]
  | encEnd | layEnd | serHend | serEnd => obtain ⟨hs, ht, -⟩ := h; simp [hs, ht]
  | serHdr | serPix => obtain ⟨hs, -, ht, -⟩ := h; simp [hs, ht]

/-- Settles O43: a step keeps PHASE or performs a row of the table. -/
theorem phaseNeverGoesBack : Obligations.PhaseNeverGoesBack := by
  intro s t h hrst
  by_cases hne : t.phase = s.phase
  · rw [hne]
  · obtain ⟨i, hdec, hrow⟩ := phaseChangesAreTabled s t h hne
    exact (phaseRow_raises_phase hrow fun hi => hrst (hi ▸ hdec)).le

/-- Nothing has changed but the list of turns and the host's last answer, which are the model's own (log 1, log 11). -/
def BlockKept (s t : State) : Prop := t = { s with host := t.host, reply := t.reply }

/-- Outside IDLE a host transaction other than RST, performed or refused, only answers. -/
theorem exec_host_blockKept (hidle : s.phase ≠ phIdle)
    (hi : i = .nop ∨ (∃ d, i = .load d) ∨ i = .start ∨ ∃ r, i = .rd r) (h : exec i (takeTurn s) = .next t) :
    BlockKept s t := by
  obtain rfl | ⟨d, rfl⟩ | rfl | ⟨r, rfl⟩ := hi
  · obtain rfl := execNop_next h; rfl
  · obtain ⟨-, rfl⟩ | ⟨hp, -⟩ | ⟨hp, -⟩ := execLoad_next h
    · rfl
    · exact absurd hp hidle
    · exact absurd hp hidle
  · obtain ⟨-, rfl⟩ | ⟨hp, -⟩ | ⟨hp, -⟩ | ⟨hp, -⟩ := execStart_next h
    · rfl
    · exact absurd hp hidle
    · exact absurd hp hidle
    · exact absurd hp hidle
  · obtain ⟨n, -, rfl⟩ | ⟨-, rfl⟩ := execRd_next h <;> rfl

theorem noOperation_blockKept {e : DecodeError} (h : noOperation e (takeTurn s) = .next t) : BlockKept s t := by
  obtain ⟨-, rfl⟩ | ⟨-, rfl⟩ | ⟨-, rfl⟩ := noOperation_next h <;> rfl

/-- Settles O44: in DONE and ERROR the dispatch names nothing, so the step is a transaction or picks no operation. -/
theorem doneAndErrorAreAbsorbing : Obligations.DoneAndErrorAreAbsorbing := by
  intro s t hp h hrst
  have hidle : s.phase ≠ phIdle := by bv_omega
  obtain ⟨i, hdec, h⟩ | ⟨e, -, h⟩ := step_next h
  · obtain hd | rfl | hload | hstart | hrd | rfl := decode_nextSelector_ok hdec
    · obtain ⟨-, hhi⟩ := hd.busy
      bv_omega
    · exact exec_host_blockKept hidle (.inl rfl) h
    · exact exec_host_blockKept hidle (.inr (.inl hload)) h
    · exact exec_host_blockKept hidle (.inr (.inr (.inl hstart))) h
    · exact exec_host_blockKept hidle (.inr (.inr (.inr hrd))) h
    · exact absurd hdec hrst
  · exact noOperation_blockKept h

end Sys2Proof.Machine
end

section
/-! Proofs of the bitpacker family (`41_bitpacker.md`), part 1: the function `pack` (R140, R141). -/

namespace Sys2Proof.Machine

/-- A bit of a byte is a binary digit of its value (R12). -/
theorem bitOf_toNat (b : Byte) (k : Nat) : (bitOf b k).toNat = b.toNat / 2 ^ k % 2 := by
  simp [bitOf]

/-- A byte is the sum of its eight bits, each at its weight, most significant first (R62). -/
theorem toNat_eq_sum_bitOf (b : Byte) :
    b.toNat = ((List.range 8).map (fun k => (bitOf b (7 - k)).toNat * 2 ^ (7 - k))).sum := by
  have hlt := b.isLt
  simp only [bitOf_toNat, List.range_succ, List.range_zero, List.nil_append, List.cons_append, List.map_cons,
    List.map_nil, List.sum_cons, List.sum_nil]
  omega

/-- A bit of `pack`, by the byte that holds it (R140). -/
theorem pack_getElem?_of_byte {p : List Byte} {i : Nat} {b : Byte} (h : p[i / 8]? = some b) :
    (pack p)[i]? = some (bitOf b (7 - i % 8)) := by
  obtain ⟨hlt, -⟩ := List.getElem?_eq_some_iff.1 h
  rw [pack_getElem? p (by omega), h, Option.map_some]

/-- The eight bits that `pack` makes of the byte at `j` (R140). -/
theorem pack_getElem?_of_byte_bit {p : List Byte} {j k : Nat} {b : Byte} (h : p[j]? = some b) (hk : k < 8) :
    (pack p)[8 * j + k]? = some (bitOf b (7 - k)) := by
  have hdiv : (8 * j + k) / 8 = j := by omega
  have hmod : (8 * j + k) % 8 = k := by omega
  rw [pack_getElem?_of_byte (hdiv.symm ▸ h), hmod]

/-- The recovery of a byte from its bits (R141). -/
theorem toNat_eq_sum_pack {p : List Byte} {j : Nat} {b : Byte} (h : p[j]? = some b) :
    b.toNat = ((List.range 8).map (fun k => (((pack p)[8 * j + k]?).getD 0).toNat * 2 ^ (7 - k))).sum := by
  rw [toNat_eq_sum_bitOf b]
  congr 1
  refine List.map_congr_left fun k hk => ?_
  rw [pack_getElem?_of_byte_bit h (List.mem_range.1 hk), Option.getD_some]

/-- Payloads with the same bits have the same length, and at each place the same byte (R141). -/
theorem pack_injective : Function.Injective pack := by
  intro p q h
  have hlen : p.length = q.length := by
    have := congrArg List.length h
    simp only [pack_length] at this
    omega
  refine List.ext_getElem hlen fun j hp hq => BitVec.eq_of_toNat_eq ?_
  rw [toNat_eq_sum_pack (List.getElem?_eq_getElem hp), h, ← toNat_eq_sum_pack (List.getElem?_eq_getElem hq)]

/-- Settles O11: the bits by the byte that holds them, and the payload from its bits. -/
theorem packIsRecoverable : Obligations.PackIsRecoverable :=
  ⟨fun _ _ _ h => ⟨_, pack_getElem?_of_byte h, bitOf_toNat ..⟩, pack_length, pack_nil, pack_injective,
    fun _ _ _ h => toNat_eq_sum_pack h⟩

end Sys2Proof.Machine
end

section
/-! Runs of several steps, and buffers filled from the first cell on: what the statements about a whole stage share
(R145, R158, R180). -/

namespace Sys2Proof.Machine

variable {s t : State}

/-- A run whose first step answers a next state goes on from there. -/
theorem stepMany_succ {u : State} (k : Nat) (h : step s = .next u) : stepMany (k + 1) s = stepMany k u := by
  simp [stepMany, h]

/-- A run goes on from the state that its first steps answer. -/
theorem stepMany_add {k : Nat} (m : Nat) (h : stepMany k s = .next t) : stepMany (k + m) s = stepMany m t := by
  induction k generalizing s with
  | zero => obtain rfl := next_inj h; rw [Nat.zero_add]
  | succ k ih =>
    cases hs : step s with
    | next u =>
      rw [stepMany_succ k hs] at h
      rw [Nat.succ_add, stepMany_succ _ hs, ih h]
    | fault r | refused r => simp [stepMany, hs] at h

/-- One more step at the end of a run. -/
theorem stepMany_succ_of_next {k : Nat} {u : State} (h : stepMany k s = .next t) (hstep : step t = .next u) :
    stepMany (k + 1) s = .next u := by
  rw [stepMany_add 1 h, stepMany_succ 0 hstep, stepMany]

/-- With no host turn to come, a step performs what the dispatch names (R121). -/
theorem step_of_dispatches {i : Instr} (hhost : s.host = []) (h : Dispatches s i) : step s = exec i s := by
  have hsel : nextSelector s = seqSelector s := nextSelector_of_seqTurn (.inl hhost)
  have hturn : takeTurn s = s := by rw [takeTurn_eq, hhost, List.tail_nil, ← hhost]
  rw [step_of_ok (hsel ▸ decode_seqSelector_ok_iff.2 h), hturn]

/-- The first `k` values of `l` have been written over `m₀`, from cell 0 on, and no other cell. -/
structure Memory.Filled {n : Nat} (l : List (BitVec n)) (m₀ : Memory n) (k : Nat) (m : Memory n) : Prop where
  cells : Memory.contents m k = l.take k
  written : ∀ j, j < k → (Memory.read m j).isSome = true
  later : ∀ j, k ≤ j → Memory.read m j = Memory.read m₀ j

theorem Memory.Filled.zero {n : Nat} (l : List (BitVec n)) (m₀ : Memory n) : Memory.Filled l m₀ 0 m₀ :=
  ⟨rfl, fun _ hj => absurd hj (Nat.not_lt_zero _), fun _ _ => rfl⟩

/-- Writing the next value to the next cell fills one cell more. -/
theorem Memory.Filled.write_next {n k : Nat} {l : List (BitVec n)} {m₀ m : Memory n} {v : BitVec n}
    (h : Memory.Filled l m₀ k m) (hv : l[k]? = some v) : Memory.Filled l m₀ (k + 1) (Memory.write m k v) where
  cells := by rw [Memory.contents_write_next, h.cells, List.take_add_one, hv, Option.toList_some]
  written := Memory.isSome_write_next v h.written
  later := Memory.later_write_next v h.later

end Sys2Proof.Machine
end

section
/-! Proofs of the bitpacker family (`41_bitpacker.md`), part 2: PACK.BIT, PACK.END and stage PACK (R143 to R145). -/

namespace Sys2Proof.Machine

variable {s : State}

/-- PACK.BIT where it completes (R143). -/
theorem execPackBit_of_read {byt : Byte} (hread : Memory.read s.pay (s.idx / 8) = some byt)
    (hroom : s.idx < s.cfg.bitsCap) :
    execPackBit s = .next { s with
      bits := Memory.write s.bits s.idx (bitOf byt (7 - s.idx % 8)), nbits := s.idx + 1, idx := s.idx + 1 } := by
  rw [execPackBit, memRead_of_some hread, memWrite_of_lt hroom]

/-- PACK.END with room in INT (R144). -/
theorem execPackEnd_of_le (h : s.nbits ≤ s.cfg.intCap) :
    execPackEnd s = .next (State.goto phEncode { s with nint := 0 }) := if_neg (Nat.not_lt.2 h)

/-- PACK.END without room in INT (R144). -/
theorem execPackEnd_of_gt (h : s.nbits > s.cfg.intCap) :
    execPackEnd s = .next (s.raise .allocation phEncode) := if_pos h

/-- Settles O9: the read and the write of PACK.BIT both succeed, and a write changes one cell. -/
theorem packBitWritesOneBit : Obligations.PackBitWritesOneBit :=
  ⟨by decide, fun _ _ hread hroom => ⟨_, _, execPackBit_of_read hread hroom, bitOf_toNat ..,
    Memory.read_write_same .., fun _ hj => Memory.read_write_other _ hj _, rfl⟩⟩

/-- Settles O10: the two outcomes of PACK.END, by the room in INT. -/
theorem packEndChecksIntCapacity : Obligations.PackEndChecksIntCapacity :=
  ⟨by decide, fun _ => ⟨execPackEnd_of_le, execPackEnd_of_gt⟩⟩

/-- Stage PACK's state at index `k`, with `m` in BITS and `n` in NBITS; the rest is as at the stage's start. -/
def State.packAt (s : State) (m : Memory 1) (n k : Nat) : State := { s with bits := m, nbits := n, idx := k }

theorem limit_packAt {m : Memory 1} {n k : Nat} (hp : s.phase = phPack) : limit (s.packAt m n k) = 8 * s.plen :=
  limit_pack (s := s.packAt m n k) hp

/-- Below the phase's limit the next step of stage PACK performs PACK.BIT. -/
theorem step_packAt_of_lt {m : Memory 1} {n k : Nat} {byt : Byte} (hhost : s.host = []) (hp : s.phase = phPack)
    (hk : k < 8 * s.plen) (hread : Memory.read s.pay (k / 8) = some byt) (hroom : k < s.cfg.bitsCap) :
    step (s.packAt m n k) = .next (s.packAt (Memory.write m k (bitOf byt (7 - k % 8))) (k + 1) (k + 1)) := by
  have hdisp : Dispatches (s.packAt m n k) .packBit := .packBit hp ((limit_packAt hp).symm ▸ hk)
  exact (step_of_dispatches (s := s.packAt m n k) hhost hdisp).trans
    (execPackBit_of_read (s := s.packAt m n k) hread hroom)

/-- At the phase's limit the next step of stage PACK performs PACK.END. -/
theorem step_packAt_limit {m : Memory 1} {n : Nat} (hhost : s.host = []) (hp : s.phase = phPack) :
    step (s.packAt m n (8 * s.plen)) = execPackEnd (s.packAt m n (8 * s.plen)) := by
  have hdisp : Dispatches (s.packAt m n (8 * s.plen)) .packEnd := .packEnd hp (limit_packAt hp).le
  exact step_of_dispatches (s := s.packAt m n (8 * s.plen)) hhost hdisp

/-- The first `k` steps of stage PACK write the first `k` bits of the payload (R145). NBITS is their number once one
step is done; before, it is what it was. -/
theorem stepMany_packBit (hhost : s.host = []) (hp : s.phase = phPack) (hidx : s.idx = 0)
    (hroom : 8 * s.plen ≤ s.cfg.bitsCap) (hpay : ∀ j, j < s.plen → (Memory.read s.pay j).isSome = true) :
    ∀ k, k ≤ 8 * s.plen → ∃ m n, stepMany k s = .next (s.packAt m n k) ∧
      Memory.Filled (pack s.payload) s.bits k m ∧ (0 < k → n = k) := by
  intro k
  induction k with
  | zero =>
    intro _
    have hstart : s.packAt s.bits s.nbits 0 = s := by rw [← hidx]; rfl
    exact ⟨s.bits, s.nbits, by rw [hstart]; rfl, .zero .., fun h => absurd h (lt_irrefl 0)⟩
  | succ k ih =>
    intro hk
    obtain ⟨m, n, hrun, hfilled, -⟩ := ih (by omega)
    obtain ⟨byt, hread⟩ := Option.isSome_iff_exists.1 (hpay (k / 8) (by omega))
    have hstep := step_packAt_of_lt (m := m) (n := n) hhost hp hk hread (by omega)
    have hbit := pack_payload_getElem? hk hread
    exact ⟨_, _, stepMany_succ_of_next hrun hstep, hfilled.write_next hbit, fun _ => rfl⟩

/-- Settles O12: PACK.BIT fills BITS with the payload's bits, then PACK.END takes one of its two ends. -/
theorem stagePackComputesPack : Obligations.StagePackComputesPack := by
  intro s hhost hp hidx hplen hroom hpay
  obtain ⟨m, n, hrun, hfilled, hn⟩ := stepMany_packBit hhost hp hidx hroom hpay _ le_rfl
  obtain rfl := hn (by omega)
  have hcells : Memory.contents m (8 * s.plen) = pack s.payload := by
    rw [hfilled.cells, List.take_of_length_le (pack_payload_length s).le]
  have hlast := step_packAt_limit (m := m) (n := 8 * s.plen) hhost hp
  obtain hfits | hsmall := le_or_gt (8 * s.plen) s.cfg.intCap
  · have hrun := stepMany_succ_of_next hrun (hlast.trans (execPackEnd_of_le hfits))
    exact ⟨_, hrun, hcells, hfilled.written, hfilled.later, fun _ => rfl, fun hsmall => absurd hfits hsmall.not_ge⟩
  · have hrun := stepMany_succ_of_next hrun (hlast.trans (execPackEnd_of_gt hsmall))
    exact ⟨_, hrun, hcells, hfilled.written, hfilled.later, fun hfits => absurd hfits hsmall.not_ge, fun _ => rfl⟩

end Sys2Proof.Machine
end

section
/-! Proofs of the parity encoder family (`42_parity_encoder.md`), part 1: the adjustment and the intensity (R150, R153,
R154). -/

namespace Sys2Proof.Machine

variable {bit c : Nat}

theorem adjust_of_parity_eq (h : c % 2 = bit) : adjust bit c = c := if_pos h

theorem adjust_of_parity_ne (h : c % 2 ≠ bit) : adjust bit c = c + 1 := if_neg h

/-- What is added is the parity in which the draw and the bit differ (R150). -/
theorem adjust_eq_add (hbit : bit < 2) : adjust bit c = c + (c % 2 + bit) % 2 := by
  by_cases h : c % 2 = bit
  · rw [adjust_of_parity_eq h]; omega
  · rw [adjust_of_parity_ne h]; omega

theorem adjust_parity (hbit : bit < 2) : adjust bit c % 2 = bit := by
  rw [adjust_eq_add hbit]; omega

theorem adjust_eq_self_or_succ : adjust bit c = c ∨ adjust bit c = c + 1 := ite_eq_or_eq ..

theorem le_adjust : c ≤ adjust bit c := by
  obtain h | h := adjust_eq_self_or_succ (bit := bit) (c := c) <;> omega

theorem adjust_le_succ : adjust bit c ≤ c + 1 := by
  obtain h | h := adjust_eq_self_or_succ (bit := bit) (c := c) <;> omega

theorem symbol_le (b : Bit) (c : Byte) : (symbol b c).toNat ≤ 256 := by
  have hc : c.toNat < 256 := c.isLt
  have hle : (symbol b c).toNat ≤ c.toNat + 1 := symbol_toNat b c ▸ adjust_le_succ
  omega

/-- Settles O15: the adjustment by the parities, the intensity by `symbol_toNat`, and the four values outside the
contract by evaluation. -/
theorem adjustmentForEveryDraw : Obligations.AdjustmentForEveryDraw :=
  ⟨fun _ _ hbit => ⟨rfl, adjust_parity hbit, le_adjust, adjust_le_succ, adjust_eq_add hbit⟩,
    fun b c => ⟨symbol_toNat b c, symbol_le b c⟩, by decide⟩

/-- Settles O14: the intensity as the sum of the draw and its adjustment, and the bit and the draw by their values. -/
theorem symbolKeepsParityAndRange : Obligations.SymbolKeepsParityAndRange := by
  intro b c hlo hhi
  have hsym : (symbol b c).toNat = c.toNat + (c.toNat % 2 + b.toNat) % 2 :=
    (symbol_toNat b c).trans (adjust_eq_add b.isLt)
  have hbit : b.toNat < 2 := b.isLt
  have hzero : b = 0 ↔ b.toNat = 0 := BitVec.toNat_inj.symm
  have hone : b = 1 ↔ b.toNat = 1 := BitVec.toNat_inj.symm
  have htop : c = 254 ↔ c.toNat = 254 := BitVec.toNat_inj.symm
  rw [hsym, hzero, hone, htop]
  omega

end Sys2Proof.Machine
end

section
/-! Proofs of the parity encoder family (`42_parity_encoder.md`), part 2: ENC.SYM, the stage exits and stage ENCODE
(R156 to R158; R179, R190 and R194). -/

namespace Sys2Proof.Machine

variable {s : State}

/-- ENC.SYM where it completes with a draw (R156). -/
theorem execEncSym_of_draw {c : Byte} {rest : List Byte} {b : Bit} (hdraws : s.draws = c :: rest)
    (hread : Memory.read s.bits s.idx = some b) (hroom : s.idx < s.cfg.intCap) :
    execEncSym s = .next { s with
      int := Memory.write s.int s.idx (symbol b c), nint := s.idx + 1, idx := s.idx + 1, draws := rest,
      drawn := s.drawn ++ [c], asked := s.asked ++ [⟨Config.drawLo, Config.drawHi⟩] } := by
  rw [execEncSym, draw, hdraws]
  exact (memRead_of_some hread).trans (memWrite_of_lt hroom)

/-- Settles O13: the draw, the read and the write of ENC.SYM all succeed, and a write changes one cell. -/
theorem encSymTakesOneDraw : Obligations.EncSymTakesOneDraw :=
  ⟨by decide, fun _ c _ b hdraws hread hroom => ⟨_, symbol b c, execEncSym_of_draw hdraws hread hroom,
    symbol_toNat b c, Memory.read_write_same .., fun _ hj => Memory.read_write_other _ hj _, rfl⟩⟩

/-- Settles O26: each of the four operations is one assignment of PHASE, with IDX or without. -/
theorem stageExitsTransferControl : Obligations.StageExitsTransferControl :=
  ⟨by decide, by decide, by decide, by decide, fun _ => ⟨rfl, rfl, rfl, rfl⟩⟩

/-- Stage ENCODE's state at index `k`, with `m` in INT and `n` in NINT, and the first `k` draws taken; the rest is as at
the stage's start. -/
def State.encodeAt (s : State) (m : Memory 9) (n k : Nat) : State :=
  { s with
    int := m, nint := n, idx := k, draws := s.draws.drop k, drawn := s.drawn ++ s.draws.take k,
    asked := s.asked ++ List.replicate k ⟨Config.drawLo, Config.drawHi⟩ }

theorem limit_encodeAt {m : Memory 9} {n k : Nat} (hp : s.phase = phEncode) : limit (s.encodeAt m n k) = s.nbits :=
  limit_encode (s := s.encodeAt m n k) hp

/-- The stage's start is its state at index 0. -/
theorem encodeAt_zero (hidx : s.idx = 0) : s.encodeAt s.int s.nint 0 = s := by
  simp only [State.encodeAt, List.drop_zero, List.take_zero, List.replicate_zero, List.append_nil]
  rw [← hidx]

/-- ENC.SYM at index `k` takes draw `k` (R156). -/
theorem execEncSym_encodeAt {m : Memory 9} {n k : Nat} {b : Bit} {c : Byte} (hread : Memory.read s.bits k = some b)
    (hdraw : s.draws[k]? = some c) (hroom : k < s.cfg.intCap) :
    execEncSym (s.encodeAt m n k) = .next (s.encodeAt (Memory.write m k (symbol b c)) (k + 1) (k + 1)) := by
  obtain ⟨hlen, hget⟩ := List.getElem?_eq_some_iff.1 hdraw
  have hdraws : s.draws.drop k = c :: s.draws.drop (k + 1) := hget ▸ List.drop_eq_getElem_cons hlen
  have htaken : s.draws.take (k + 1) = s.draws.take k ++ [c] := by
    rw [List.take_add_one, hdraw, Option.toList_some]
  rw [execEncSym_of_draw (s := s.encodeAt m n k) hdraws hread hroom]
  simp [State.encodeAt, htaken, List.replicate_succ']

/-- Below the phase's limit the next step of stage ENCODE performs ENC.SYM. -/
theorem step_encodeAt_of_lt {m : Memory 9} {n k : Nat} {b : Bit} {c : Byte} (hhost : s.host = [])
    (hp : s.phase = phEncode) (hk : k < s.nbits) (hread : Memory.read s.bits k = some b)
    (hdraw : s.draws[k]? = some c) (hroom : k < s.cfg.intCap) :
    step (s.encodeAt m n k) = .next (s.encodeAt (Memory.write m k (symbol b c)) (k + 1) (k + 1)) := by
  have hdisp : Dispatches (s.encodeAt m n k) .encSym := .encSym hp ((limit_encodeAt hp).symm ▸ hk)
  exact (step_of_dispatches (s := s.encodeAt m n k) hhost hdisp).trans (execEncSym_encodeAt hread hdraw hroom)

/-- At the phase's limit the next step of stage ENCODE performs ENC.END (R157). -/
theorem step_encodeAt_limit {m : Memory 9} {n : Nat} (hhost : s.host = []) (hp : s.phase = phEncode) :
    step (s.encodeAt m n s.nbits) = .next ((s.encodeAt m n s.nbits).goto phDim) := by
  have hdisp : Dispatches (s.encodeAt m n s.nbits) .encEnd := .encEnd hp (limit_encodeAt hp).le
  exact step_of_dispatches (s := s.encodeAt m n s.nbits) hhost hdisp

/-- An intensity of `encode`, by its bit and its draw (R152). -/
theorem encodeBits_getElem? {bits : List Bit} {draws : List Byte} {k : Nat} {b : Bit} {c : Byte}
    (hbit : bits[k]? = some b) (hdraw : draws[k]? = some c) : (encodeBits bits draws)[k]? = some (symbol b c) := by
  simp [encodeBits, List.getElem?_zipWith, hbit, hdraw]

/-- Draws past the last bit do not matter. -/
theorem take_encodeBits (bits : List Bit) {cs : List Byte} (rest : List Byte) (hlen : cs.length = bits.length) :
    (encodeBits bits (cs ++ rest)).take cs.length = encodeBits bits cs := by
  rw [encodeBits, List.take_zipWith, List.take_left, List.take_of_length_le hlen.ge, encodeBits]

/-- The first `k` steps of stage ENCODE take the first `k` draws and write the first `k` intensities (R158). NINT is their
number once one step is done; before, it is what it was. -/
theorem stepMany_encSym (hhost : s.host = []) (hp : s.phase = phEncode) (hidx : s.idx = 0)
    (hroom : s.nbits ≤ s.cfg.intCap) (hbits : ∀ j, j < s.nbits → (Memory.read s.bits j).isSome = true)
    (hdraws : s.nbits ≤ s.draws.length) :
    ∀ k, k ≤ s.nbits → ∃ m n, stepMany k s = .next (s.encodeAt m n k) ∧
      Memory.Filled (encodeBits s.bitSeq s.draws) s.int k m ∧ (0 < k → n = k) := by
  intro k
  induction k with
  | zero =>
    intro _
    exact ⟨s.int, s.nint, by rw [encodeAt_zero hidx]; rfl, .zero .., fun h => absurd h (lt_irrefl 0)⟩
  | succ k ih =>
    intro hk
    obtain ⟨m, n, hrun, hfilled, -⟩ := ih (by omega)
    obtain ⟨b, hread⟩ := Option.isSome_iff_exists.1 (hbits k hk)
    have hdraw : s.draws[k]? = some s.draws[k] := List.getElem?_eq_getElem (by omega)
    have hbit : s.bitSeq[k]? = some b := Memory.contents_getElem?_of_read hk hread
    have hstep := step_encodeAt_of_lt (m := m) (n := n) hhost hp hk hread hdraw (by omega)
    have hsym := encodeBits_getElem? hbit hdraw
    exact ⟨_, _, stepMany_succ_of_next hrun hstep, hfilled.write_next hsym, fun _ => rfl⟩

/-- Settles O16: ENC.SYM fills INT with the intensities, one draw each, then ENC.END leaves the stage. -/
theorem stageEncodeComputesEncode : Obligations.StageEncodeComputesEncode := by
  intro s cs rest hhost hp hidx hn hroom hbits hdraws hlen
  have henough : s.nbits ≤ s.draws.length := by rw [hdraws, List.length_append]; omega
  obtain ⟨m, n, hrun, hfilled, hnint⟩ := stepMany_encSym hhost hp hidx hroom hbits henough _ le_rfl
  obtain rfl := hnint (by omega)
  have hcells : Memory.contents m s.nbits = encodeBits s.bitSeq cs := by
    rw [hfilled.cells, hdraws, ← hlen]
    exact take_encodeBits s.bitSeq rest (hlen.trans (Memory.contents_length ..).symm)
  have htaken : s.draws.take s.nbits = cs := by rw [hdraws, ← hlen, List.take_left]
  have hleft : s.draws.drop s.nbits = rest := by rw [hdraws, ← hlen, List.drop_left]
  refine ⟨_, stepMany_succ_of_next hrun (step_encodeAt_limit hhost hp), hcells, hfilled.written, hfilled.later, ?_⟩
  rw [State.encodeAt, htaken, hleft]
  rfl

end Sys2Proof.Machine
end

section
/-! Proofs of the raster layout family (`43_raster_layout.md`), part 1: the ceilings, the dimensions and the number of cells
(R165 to R170). -/

namespace Sys2Proof.Machine

variable {n m w h : Nat}

/-- R165: `csqrt` is the least number whose square reaches its argument. -/
theorem csqrt_le_iff : csqrt n ≤ w ↔ n ≤ w * w where
  mp hle := (csqrt_sq_ge n).trans (Nat.mul_self_le_mul_self hle)
  mpr hsq := not_lt.1 fun hlt => hsq.not_gt (csqrt_least hlt)

/-- R167: `ceilDiv` is the least number whose product reaches its argument. -/
theorem ceilDiv_le_iff (hw : 1 ≤ w) : ceilDiv n w ≤ h ↔ n ≤ w * h := ceilDiv_le_iff_le_mul hw

theorem csqrt_pred_sq_lt (hn : 1 ≤ n) : (csqrt n - 1) * (csqrt n - 1) < n :=
  csqrt_least (Nat.sub_lt (csqrt_pos hn) Nat.one_pos)

/-- R165: the bounds of `csqrt` on both sides determine it. -/
theorem csqrt_eq_iff (hn : 1 ≤ n) : csqrt n = w ↔ (w - 1) * (w - 1) < n ∧ n ≤ w * w := by
  constructor
  · rintro rfl
    exact ⟨csqrt_pred_sq_lt hn, csqrt_sq_ge n⟩
  · rintro ⟨hpred, hsq⟩
    have hle : csqrt n ≤ w := csqrt_le_iff.2 hsq
    have hge : ¬ csqrt n ≤ w - 1 := fun h => hpred.not_ge (csqrt_le_iff.1 h)
    omega

/-- Settles O17: both ceilings as the least number that reaches, and `csqrt` by its bounds. -/
theorem ceilingsAreLeast : Obligations.CeilingsAreLeast :=
  ⟨fun n => ⟨csqrt_sq_ge n, fun _ => csqrt_le_iff.2⟩, fun _ _ hn _ => (csqrt_eq_iff hn).symm.trans eq_comm,
    fun n w hw => ⟨mul_comm w _ ▸ ceilDiv_mul_ge n hw, fun h hle => (ceilDiv_le_iff hw).2 (mul_comm h w ▸ hle), rfl⟩⟩

theorem csqrt_mono (h : n ≤ m) : csqrt n ≤ csqrt m := csqrt_le_iff.2 (h.trans (csqrt_sq_ge m))

theorem csqrt_le_self : csqrt n ≤ n := csqrt_le_iff.2 (Nat.le_mul_self n)

/-- R169: the height is the width, or one less where that is enough. -/
theorem ceilDiv_csqrt (hn : 1 ≤ n) :
    ceilDiv n (csqrt n) = if n ≤ csqrt n * (csqrt n - 1) then csqrt n - 1 else csqrt n := by
  have hw := csqrt_pos hn
  have hpred := csqrt_pred_sq_lt hn
  have htall : ceilDiv n (csqrt n) ≤ csqrt n := (ceilDiv_le_iff hw).2 (csqrt_sq_ge n)
  have hshort : ceilDiv n (csqrt n) ≤ csqrt n - 1 ↔ n ≤ csqrt n * (csqrt n - 1) := ceilDiv_le_iff hw
  have hflat : csqrt n - 1 ≤ ceilDiv n (csqrt n) := by
    by_contra hlt
    have hle : n ≤ csqrt n * (csqrt n - 2) := (ceilDiv_le_iff hw).1 (by omega)
    obtain ⟨k, hk⟩ : ∃ k, csqrt n = k + 2 := ⟨csqrt n - 2, by omega⟩
    have hsq : (k + 2) * k ≤ (k + 1) * (k + 1) := by nlinarith
    rw [hk] at hle hpred
    exact hpred.not_ge (hle.trans hsq)
  split <;> omega

theorem dims_height_eq (hn : 1 ≤ n) :
    (dims n).2 = if n ≤ (dims n).1 * ((dims n).1 - 1) then (dims n).1 - 1 else (dims n).1 := ceilDiv_csqrt hn

theorem dims_height_pos (hn : 1 ≤ n) : 1 ≤ (dims n).2 :=
  Nat.pos_of_mul_pos_left (lt_of_lt_of_le hn (cells_ge hn))

/-- Settles O18: the width by `csqrt`, the height by `dims_height_eq`. -/
theorem dimensionsAreNearSquare : Obligations.DimensionsAreNearSquare := by
  intro n w h hn hdims
  obtain ⟨rfl, rfl⟩ := Prod.mk.inj hdims
  have hheight := dims_height_eq hn
  exact ⟨csqrt_pos hn, dims_height_pos hn, csqrt_pred_sq_lt hn, csqrt_sq_ge n,
    fun hle => hheight.trans (if_pos hle), fun hlt => hheight.trans (if_neg hlt.not_ge), csqrt_le_self⟩

theorem cells_lt (hn : 1 ≤ n) : cells n < n + (dims n).1 := ceilDiv_mul_lt (csqrt_pos hn) hn

/-- R170: the number of cells in closed form. -/
theorem cells_eq_ite (hn : 1 ≤ n) :
    cells n = if n ≤ (dims n).1 * ((dims n).1 - 1) then (dims n).1 * ((dims n).1 - 1) else (dims n).1 * (dims n).1 := by
  rw [cells, dims_height_eq hn, mul_ite]

theorem cells_le_sq (hn : 1 ≤ n) : cells n ≤ csqrt n * csqrt n :=
  Nat.mul_le_mul_left _ ((ceilDiv_le_iff (csqrt_pos hn)).2 (csqrt_sq_ge n))

/-- R170: a grid of the same width has no fewer rows, and a wider one holds the whole square of the narrower. -/
theorem cells_mono (hn : 1 ≤ n) (hnm : n ≤ m) : cells n ≤ cells m := by
  have hm : 1 ≤ m := hn.trans hnm
  obtain hlt | heq := (csqrt_mono hnm).lt_or_eq
  · calc cells n ≤ csqrt n * csqrt n := cells_le_sq hn
      _ ≤ m := (csqrt_least hlt).le
      _ ≤ cells m := cells_ge hm
  · have hrows : ceilDiv n (csqrt n) ≤ ceilDiv m (csqrt n) :=
      (ceilDiv_le_iff (csqrt_pos hn)).2 (hnm.trans (ceilDiv_mul_ge m (csqrt_pos hn)))
    calc cells n = csqrt n * ceilDiv n (csqrt n) := rfl
      _ ≤ csqrt n * ceilDiv m (csqrt n) := Nat.mul_le_mul_left _ hrows
      _ = cells m := by rw [heq]; rfl

/-- Settles O19: the bounds, the closed form and the monotonicity of `cells`, and the eight dimensions by evaluation. -/
theorem cellCountBounds : Obligations.CellCountBounds := by
  refine ⟨fun n hn => ⟨cells_ge hn, cells_lt hn, ?_, cells_eq_ite hn⟩, fun _ _ => cells_mono, by decide⟩
  calc cells n < n + csqrt n := cells_lt hn
    _ ≤ n + n := Nat.add_le_add_left csqrt_le_self n
    _ = 2 * n := (two_mul n).symm

end Sys2Proof.Machine
end

section
/-! Proofs of the raster layout family (`43_raster_layout.md`), part 2: the clamp and the function `layout` (R171 to R175). -/

namespace Sys2Proof.Machine

theorem clamp_of_neg {v : Int} (h : v < 0) : clamp v = 0 := if_pos h

theorem clamp_of_gt {v : Int} (h : 255 < v) : clamp v = 255 := by
  rw [clamp, if_neg (by omega), if_pos (show v > (Config.maxVal : Int) from h)]
  rfl

theorem clamp_of_mem {v : Int} (hlo : 0 ≤ v) (hhi : v ≤ 255) : clamp v = v := by
  rw [clamp, if_neg hlo.not_gt, if_neg (show ¬ v > (Config.maxVal : Int) from hhi.not_gt)]

/-- The clamp's result is a byte (R171). -/
theorem clamp_bounds (v : Int) : 0 ≤ clamp v ∧ clamp v ≤ 255 := by
  obtain hneg | hlo := lt_or_ge v 0
  · rw [clamp_of_neg hneg]; decide
  obtain hgt | hhi := lt_or_ge 255 v
  · rw [clamp_of_gt hgt]; decide
  · rw [clamp_of_mem hlo hhi]; exact ⟨hlo, hhi⟩

/-- What the clamp does to a natural (R172). -/
theorem clamp_natCast (v : Nat) : clamp v = (min v 255 : Nat) := by
  obtain hgt | hhi := lt_or_ge 255 v
  · rw [clamp_of_gt (by omega), min_eq_right hgt.le]; rfl
  · rw [clamp_of_mem (by omega) (by omega), min_eq_left hhi]

/-- The narrowing to a GRID cell after the clamp loses nothing (R70). -/
theorem cellOfInt_toNat (v : Int) : ((cellOfInt v).toNat : Int) = clamp v := by
  obtain ⟨hlo, hhi⟩ := clamp_bounds v
  rw [cellOfInt, BitVec.toNat_ofInt]
  omega

theorem cellOf_toNat (v : Intensity) : (cellOf v).toNat = min v.toNat 255 :=
  Int.ofNat_inj.1 ((cellOfInt_toNat v.toNat).trans (clamp_natCast v.toNat))

/-- Settles O21: the clamp by its three cases, and the cell of an intensity by its value. -/
theorem clampOnlyChangesOutOfRange : Obligations.ClampOnlyChangesOutOfRange :=
  ⟨fun _ => ⟨clamp_of_neg, clamp_of_gt, clamp_of_mem⟩, cellOf_toNat⟩

variable {ints : List Int} {r : Raster}

theorem layout_of_ne_nil (h : ints ≠ []) :
    layout ints = .ok
      { w := (dims ints.length).1, h := (dims ints.length).2,
        cells := ints.map cellOfInt ++ List.replicate (cells ints.length - ints.length) Config.sentinel } := if_neg h

/-- What a raster that `layout` gives consists of (R173): the dimensions of the length, and the cells of the integers
followed by padding. -/
theorem layout_ok (h : layout ints = .ok r) :
    1 ≤ ints.length ∧ (r.w, r.h) = dims ints.length ∧
      r.cells = ints.map cellOfInt ++ List.replicate (cells ints.length - ints.length) Config.sentinel := by
  obtain rfl | hne := eq_or_ne ints []
  · cases h
  · rw [layout_of_ne_nil hne] at h
    cases h
    exact ⟨List.length_pos_iff.2 hne, rfl, rfl⟩

theorem layout_size (h : layout ints = .ok r) : r.w * r.h = cells ints.length := by
  obtain ⟨-, hdims, -⟩ := layout_ok h
  rw [cells, ← hdims]

theorem layout_cells_length (h : layout ints = .ok r) : r.cells.length = r.w * r.h := by
  obtain ⟨hpos, -, hcells⟩ := layout_ok h
  rw [layout_size h, hcells, List.length_append, List.length_map, List.length_replicate,
    Nat.add_sub_cancel' (cells_ge hpos)]

/-- Each integer is in its place (R173). -/
theorem layout_data {i : Nat} {v : Int} (h : layout ints = .ok r) (hv : ints[i]? = some v) :
    r.cells[i]? = some (cellOfInt v) := by
  obtain ⟨hlt, -⟩ := List.getElem?_eq_some_iff.1 hv
  obtain ⟨-, -, hcells⟩ := layout_ok h
  rw [hcells, List.getElem?_append_left (by rwa [List.length_map]), List.getElem?_map, hv, Option.map_some]

/-- The cells after the last integer are padding (R173, R175). -/
theorem layout_padding {i : Nat} (h : layout ints = .ok r) (hge : ints.length ≤ i) (hlt : i < r.w * r.h) :
    r.cells[i]? = some 0 := by
  obtain ⟨-, -, hcells⟩ := layout_ok h
  rw [layout_size h] at hlt
  rw [hcells, List.getElem?_append_right (by rwa [List.length_map]), List.length_map,
    List.getElem?_replicate_of_lt (by omega)]
  rfl

/-- Settles O22: the raster that `layout` gives, by its dimensions, its length, its data cells and its padding. -/
theorem layoutPlacesThenPads : Obligations.LayoutPlacesThenPads := by
  refine ⟨rfl, fun ints hne => ?_⟩
  have hlayout := layout_of_ne_nil hne
  exact ⟨_, hlayout, rfl, layout_cells_length hlayout, fun _ v hv => ⟨_, layout_data hlayout hv, cellOfInt_toNat v⟩,
    fun _ => layout_padding hlayout⟩

/-- The cells that stage RasterLayout gives are those of `layout` (R180). -/
theorem layout_intensities {vs : List Intensity} (h : vs ≠ []) :
    layout (vs.map (fun v => (v.toNat : Int))) = .ok ⟨(dims vs.length).1, (dims vs.length).2, layoutCells vs⟩ := by
  rw [layout_of_ne_nil (by simpa using h), List.map_map, List.length_map]
  rfl

/-- Where no integer's cell is 0, the first 0 of the raster is where the integers end (R175). -/
theorem findIdx_zero_of_layout (h : layout ints = .ok r) (hne : ∀ v ∈ ints, cellOfInt v ≠ 0) :
    r.cells.findIdx (fun g => decide (g = 0)) = ints.length := by
  obtain ⟨-, -, hcells⟩ := layout_ok h
  have hdata : (ints.map cellOfInt).findIdx (fun g => decide (g = 0)) = (ints.map cellOfInt).length :=
    List.findIdx_eq_length.2 (by simpa using hne)
  have hpad : ∀ k, (List.replicate k Config.sentinel).findIdx (fun g => decide (g = 0)) = 0
    | 0 => rfl
    | _ + 1 => rfl
  rw [hcells, List.findIdx_append, hdata, if_neg (lt_irrefl _), hpad, Nat.zero_add, List.length_map]

/-- No cell that stage ENCODE makes under the draw contract is 0 (R154, R175). -/
theorem cellOf_ne_zero_of_encodeBits {bits : List Bit} {draws : List Byte} (hrange : RngInRange draws) {v : Intensity}
    (hv : v ∈ encodeBits bits draws) : cellOf v ≠ 0 := by
  rw [encodeBits, ← List.map_uncurry_zip_eq_zipWith] at hv
  obtain ⟨⟨b, c⟩, hzip, rfl⟩ := List.mem_map.1 hv
  obtain ⟨-, hdraw⟩ := List.of_mem_zip hzip
  obtain ⟨hlo, hhi⟩ := hrange c hdraw
  obtain ⟨-, hpos, -⟩ := symbolKeepsParityAndRange b c hlo hhi
  intro hzero
  have hmin : min (symbol b c).toNat 255 = 0 := (cellOf_toNat _).symm.trans (congrArg BitVec.toNat hzero)
  omega

/-- Settles O23: the padding by `layout_padding`, and the first 0 by `findIdx_zero_of_layout`. -/
theorem sentinelEndsTheData : Obligations.SentinelEndsTheData := by
  refine ⟨fun _ _ h _ => layout_padding h, fun bits draws hbits hlen hrange => ?_⟩
  have hcount : (encodeBits bits draws).length = bits.length := by rw [encodeBits_length, hlen, min_self]
  have hne : encodeBits bits draws ≠ [] := fun h => hbits (List.eq_nil_of_length_eq_zero (by rw [← hcount, h]; rfl))
  refine ⟨_, layout_intensities hne, ?_⟩
  rw [findIdx_zero_of_layout (layout_intensities hne), List.length_map, hcount]
  intro i hi
  obtain ⟨v, hv, rfl⟩ := List.mem_map.1 hi
  exact cellOf_ne_zero_of_encodeBits hrange hv

end Sys2Proof.Machine
end

section
/-! Proofs of the raster layout family (`43_raster_layout.md`), part 3: LAY.DIM, LAY.CELL and stage RasterLayout (R176 to
R180). -/

namespace Sys2Proof.Machine

variable {s : State}

theorem execLayDim_of_empty (h : s.nint = 0) : execLayDim s = .next (s.raise .emptyInput phDim) := if_pos h

theorem execLayDim_of_le (hn : 1 ≤ s.nint) (h : cells s.nint ≤ s.cfg.gridCap) :
    execLayDim s = .next ((withDims s).goto phFill) := by
  rw [execLayDim, if_neg (by omega), if_neg (Nat.not_lt.2 h)]

theorem execLayDim_of_gt (hn : 1 ≤ s.nint) (h : s.cfg.gridCap < cells s.nint) :
    execLayDim s = .next ((withDims s).raise .allocation phDim) := by
  rw [execLayDim, if_neg (by omega), if_pos h]

/-- Settles O24: the width that R165 describes is `csqrt`, and LAY.DIM takes one of its three branches. -/
theorem layDimDerivesDimensions : Obligations.LayDimDerivesDimensions := by
  refine ⟨by decide, by decide, fun _ => execLayDim_of_empty, fun s w hn hsq hleast => ?_⟩
  have hw : csqrt s.nint = w :=
    (csqrt_le_iff.2 hsq).antisymm (not_lt.1 fun hlt => (hleast _ hlt).not_ge (csqrt_sq_ge _))
  subst hw
  exact ⟨execLayDim_of_le hn, execLayDim_of_gt hn⟩

/-- What LAY.CELL stores at index `k` (R178): the clamped intensity below NINT, the sentinel from there on. -/
inductive State.CellAt (s : State) (k : Nat) : Byte → Prop where
  | data {v : Intensity} (hk : k < s.nint) (hread : Memory.read s.int k = some v) : State.CellAt s k (cellOf v)
  | padding (hk : s.nint ≤ k) : State.CellAt s k Config.sentinel

/-- LAY.CELL where it completes (R178). -/
theorem execLayCell_of_cellAt {g : Byte} (hg : s.CellAt s.idx g) (hroom : s.idx < s.cfg.gridCap) :
    execLayCell s = .next { s with grid := Memory.write s.grid s.idx g, idx := s.idx + 1 } := by
  rw [execLayCell, cellValue]
  cases hg with
  | data hk hread => rw [if_pos hk, memRead_of_some hread, memWrite_of_lt hroom]
  | padding hk => rw [if_neg hk.not_gt, memWrite_of_lt hroom]

theorem cellOf_toNat_eq_ite (v : Intensity) : (cellOf v).toNat = if 255 < v.toNat then 255 else v.toNat := by
  rw [cellOf_toNat]
  split <;> omega

/-- Settles O25: the cell that LAY.CELL writes, a data cell or padding; a write changes one cell. -/
theorem layCellFillsOneCell : Obligations.LayCellFillsOneCell :=
  ⟨by decide,
    fun _ v hdata hread hroom => ⟨_, cellOf v, execLayCell_of_cellAt (.data hdata hread) hroom, cellOf_toNat_eq_ite v,
      Memory.read_write_same .., fun _ hj => Memory.read_write_other _ hj _, rfl⟩,
    fun _ hpad hroom => ⟨_, execLayCell_of_cellAt (.padding hpad) hroom,
      Memory.read_write_same .., fun _ hj => Memory.read_write_other _ hj _, rfl⟩⟩

/-- With INT written, LAY.CELL has a cell to store at every index. -/
theorem exists_cellAt (hint : ∀ j, j < s.nint → (Memory.read s.int j).isSome = true) (k : Nat) :
    ∃ g, s.CellAt k g := by
  obtain hk | hk := lt_or_ge k s.nint
  · obtain ⟨v, hread⟩ := Option.isSome_iff_exists.1 (hint k hk)
    exact ⟨_, .data hk hread⟩
  · exact ⟨_, .padding hk⟩

/-- What LAY.CELL stores is the raster's cell (R173, R178). -/
theorem State.CellAt.layoutCells_getElem? {k : Nat} {g : Byte} (hg : s.CellAt k g) (hcells : k < cells s.nint) :
    (layoutCells s.intSeq)[k]? = some g := by
  cases hg with
  | data hk hread =>
    rw [layoutCells_getElem?_data (by rwa [State.intSeq_length]), State.intSeq,
      Memory.contents_getElem?_of_read hk hread, Option.map_some]
  | padding hk => exact layoutCells_getElem?_pad (by rwa [State.intSeq_length]) (by rwa [State.intSeq_length])

theorem layoutCells_length {vs : List Intensity} (h : vs ≠ []) : (layoutCells vs).length = cells vs.length :=
  layout_cells_length (layout_intensities h)

/-- Stage RasterLayout's state in FILL at index `k`, with `m` in GRID; the rest, but for W and H, is as at the stage's
start. -/
def State.layAt (s : State) (m : Memory 8) (k : Nat) : State :=
  { withDims s with phase := phFill, grid := m, idx := k }

theorem limit_layAt (s : State) (m : Memory 8) (k : Nat) : limit (s.layAt m k) = cells s.nint :=
  limit_fill (s := s.layAt m k) rfl

/-- The first step of stage RasterLayout performs LAY.DIM. -/
theorem step_layDim (hhost : s.host = []) (hp : s.phase = phDim) (hn : 1 ≤ s.nint)
    (hroom : cells s.nint ≤ s.cfg.gridCap) : step s = .next (s.layAt s.grid 0) :=
  (step_of_dispatches hhost (.layDim hp)).trans (execLayDim_of_le hn hroom)

/-- Below the phase's limit the next step of stage RasterLayout performs LAY.CELL. -/
theorem step_layAt_of_lt {m : Memory 8} {k : Nat} {g : Byte} (hhost : s.host = []) (hk : k < cells s.nint)
    (hg : s.CellAt k g) (hroom : k < s.cfg.gridCap) :
    step (s.layAt m k) = .next (s.layAt (Memory.write m k g) (k + 1)) := by
  have hdisp : Dispatches (s.layAt m k) .layCell := .layCell rfl ((limit_layAt s m k).symm ▸ hk)
  have hcell : (s.layAt m k).CellAt k g := by
    cases hg with
    | data hk hread => exact .data hk hread
    | padding hk => exact .padding hk
  exact (step_of_dispatches (s := s.layAt m k) hhost hdisp).trans (execLayCell_of_cellAt hcell hroom)

/-- At the phase's limit the next step of stage RasterLayout performs LAY.END (R179). -/
theorem step_layAt_limit {m : Memory 8} (hhost : s.host = []) :
    step (s.layAt m (cells s.nint)) = .next ((s.layAt m (cells s.nint)).goto phHeader) := by
  have hdisp : Dispatches (s.layAt m (cells s.nint)) .layEnd := .layEnd rfl (limit_layAt ..).le
  exact step_of_dispatches (s := s.layAt m (cells s.nint)) hhost hdisp

/-- LAY.DIM and `k` steps of LAY.CELL write the first `k` cells of the raster (R180). -/
theorem stepMany_layCell (hhost : s.host = []) (hp : s.phase = phDim) (hn : 1 ≤ s.nint)
    (hroom : cells s.nint ≤ s.cfg.gridCap) (hint : ∀ j, j < s.nint → (Memory.read s.int j).isSome = true) :
    ∀ k, k ≤ cells s.nint → ∃ m, stepMany (1 + k) s = .next (s.layAt m k) ∧
      Memory.Filled (layoutCells s.intSeq) s.grid k m := by
  intro k
  induction k with
  | zero =>
    intro _
    exact ⟨s.grid, stepMany_succ 0 (step_layDim hhost hp hn hroom), .zero ..⟩
  | succ k ih =>
    intro hk
    obtain ⟨m, hrun, hfilled⟩ := ih (by omega)
    obtain ⟨g, hg⟩ := exists_cellAt hint k
    have hstep := step_layAt_of_lt (m := m) hhost hk hg (by omega)
    exact ⟨_, stepMany_succ_of_next hrun hstep, hfilled.write_next (hg.layoutCells_getElem? hk)⟩

/-- Settles O27: LAY.DIM gives the dimensions, LAY.CELL fills GRID with the raster's cells, then LAY.END leaves the
stage. -/
theorem stageLayoutComputesLayout : Obligations.StageLayoutComputesLayout := by
  intro s hhost hp hn hroom hint
  obtain ⟨m, hrun, hfilled⟩ := stepMany_layCell hhost hp hn hroom hint _ le_rfl
  have hne : s.intSeq ≠ [] := List.ne_nil_of_length_pos (s.intSeq_length.symm ▸ hn)
  have hlen : (layoutCells s.intSeq).length = cells s.nint := s.intSeq_length ▸ layoutCells_length hne
  have hcells : Memory.contents m (cells s.nint) = layoutCells s.intSeq := by
    rw [hfilled.cells, List.take_of_length_le hlen.le]
  refine ⟨_, stepMany_succ_of_next hrun (step_layAt_limit hhost), ?_, hfilled.written, hfilled.later, rfl⟩
  calc layout (s.intSeq.map (fun v => (v.toNat : Int)))
      = .ok ⟨(dims s.nint).1, (dims s.nint).2, layoutCells s.intSeq⟩ := s.intSeq_length ▸ layout_intensities hne
    _ = .ok ⟨(dims s.nint).1, (dims s.nint).2, Memory.contents m (cells s.nint)⟩ := by rw [hcells]

end Sys2Proof.Machine
end

section
/-! Proofs of the raster serializer family (`44_raster_serializer.md`), part 1: SER.HDR and SER.PIX at the sink (R189,
R192, R210). -/

namespace Sys2Proof.Machine

variable {s : State} {b : Byte} {rest : List SinkAnswer}

/-- Emit with ACCEPT (R210). -/
theorem emit_of_accept {stage : PhaseCode} (h : s.sink = .accept :: rest) :
    emit b stage s = .next (State.accepted b { s with sink := rest }) := by
  simp [emit, h]

/-- Emit with FAIL (R210). -/
theorem emit_of_fail {stage : PhaseCode} (h : s.sink = .fail :: rest) :
    emit b stage s = .next (State.raise .io stage { s with sink := rest }) := by
  simp [emit, h]

/-- SER.HDR offers byte IDX of the header (R189). -/
theorem execSerHdr_of_getElem? (h : (header s.w s.h)[s.idx]? = some b) : execSerHdr s = emit b phHeader s := by
  rw [execSerHdr, h]

/-- SER.PIX offers the GRID cell, unchanged (R192). -/
theorem execSerPix_of_read (h : Memory.read s.grid s.idx = some b) : execSerPix s = emit b phBody s :=
  memRead_of_some h

/-- Settles O30: below HLEN there is a header byte, and Emit has its two answers. -/
theorem serHdrOffersHeaderByte : Obligations.SerHdrOffersHeaderByte := by
  refine ⟨by decide, fun s rest hidx => ?_⟩
  have hbyte := List.getElem?_eq_getElem (hidx.trans_eq (header_length s.w s.h).symm)
  exact ⟨fun hsink => ⟨_, hbyte, (execSerHdr_of_getElem? hbyte).trans (emit_of_accept hsink)⟩,
    fun hsink => (execSerHdr_of_getElem? hbyte).trans (emit_of_fail hsink)⟩

/-- Settles O31: the read of SER.PIX succeeds, and Emit has its two answers. -/
theorem serPixOffersGridCell : Obligations.SerPixOffersGridCell :=
  ⟨by decide, fun _ _ _ hread => ⟨fun hsink => (execSerPix_of_read hread).trans (emit_of_accept hsink),
    fun hsink => (execSerPix_of_read hread).trans (emit_of_fail hsink)⟩⟩

end Sys2Proof.Machine
end

section
/-! Proofs of the raster serializer family (`44_raster_serializer.md`), part 2: stage RasterSerializer (R196). Its two
phases send one list of bytes each, in the same way. -/

namespace Sys2Proof.Machine

variable {s : State} {l : List Byte} {rest : List SinkAnswer}

/-! ## One phase: sending a list of bytes -/

/-- A sending phase's state at index `k`: the first `k` bytes of `l` are sent and the sink has the answers `rest` left;
everything else is as at the phase's start. -/
def State.sentAt (s : State) (l : List Byte) (k : Nat) (rest : List SinkAnswer) : State :=
  { s with out := s.out ++ l.take k, outcnt := s.outcnt + k, idx := k, sink := rest }

/-- The phase's start is its state at index 0. -/
theorem State.sentAt_zero (hidx : s.idx = 0) : s.sentAt l 0 s.sink = s := by
  simp only [State.sentAt, List.take_zero, List.append_nil, Nat.add_zero]
  rw [← hidx]

/-- The limit of a phase does not depend on what is sent (R102). -/
theorem limit_sentAt (s : State) (l : List Byte) (k : Nat) (rest : List SinkAnswer) :
    limit (s.sentAt l k rest) = limit s := rfl

/-- At every index of `l`, the next step of the phase offers that byte to the sink. -/
def State.Offers (s : State) (l : List Byte) : Prop :=
  ∀ k b rest, l[k]? = some b → step (s.sentAt l k rest) = emit b s.phase (s.sentAt l k rest)

/-- The sink accepts byte `k`. -/
theorem State.Offers.step_accept (h : s.Offers l) {k : Nat} (hk : k < l.length) :
    step (s.sentAt l k (.accept :: rest)) = .next (s.sentAt l (k + 1) rest) := by
  rw [h k _ _ (List.getElem?_eq_getElem hk), emit_of_accept rfl, State.accepted, State.sentAt, State.sentAt,
    List.take_add_one, List.getElem?_eq_getElem hk, Option.toList_some, ← List.append_assoc, ← Nat.add_assoc]

/-- The sink refuses byte `k`. -/
theorem State.Offers.step_fail (h : s.Offers l) {k : Nat} (hk : k < l.length) :
    step (s.sentAt l k (.fail :: rest)) = .next ((s.sentAt l k rest).raise .io s.phase) := by
  rw [h k _ _ (List.getElem?_eq_getElem hk), emit_of_fail rfl]
  rfl

/-- While the sink accepts, `k` steps send the first `k` bytes. -/
theorem State.Offers.stepMany_accept (h : s.Offers l) (hidx : s.idx = 0) :
    ∀ k rest, k ≤ l.length → s.sink = List.replicate k .accept ++ rest →
      stepMany k s = .next (s.sentAt l k rest) := by
  intro k
  induction k with
  | zero =>
    intro rest _ hsink
    obtain rfl : s.sink = rest := hsink
    rw [State.sentAt_zero hidx]
    rfl
  | succ k ih =>
    intro rest hk hsink
    rw [List.replicate_succ', List.append_assoc] at hsink
    exact stepMany_succ_of_next (ih (.accept :: rest) (by omega) hsink) (h.step_accept hk)

/-- The first byte that the sink refuses ends the run. -/
theorem State.Offers.stepMany_fail (h : s.Offers l) (hidx : s.idx = 0) {k : Nat} (hk : k < l.length)
    (hsink : s.sink = List.replicate k .accept ++ .fail :: rest) :
    stepMany (k + 1) s = .next ((s.sentAt l k rest).raise .io s.phase) :=
  stepMany_succ_of_next (h.stepMany_accept hidx k _ hk.le hsink) (h.step_fail hk)

/-! ## The two phases -/

/-- HEADER offers the header (R189). -/
theorem offers_header (hhost : s.host = []) (hp : s.phase = phHeader) : s.Offers (header s.w s.h) := by
  intro k b rest hbyte
  obtain ⟨hk, -⟩ := List.getElem?_eq_some_iff.1 hbyte
  have hdisp : Dispatches (s.sentAt (header s.w s.h) k rest) .serHdr :=
    .serHdr hp (by rwa [limit_sentAt, limit_header hp, ← header_length])
  rw [step_of_dispatches (s := s.sentAt ..) hhost hdisp, hp]
  exact execSerHdr_of_getElem? hbyte

/-- BODY offers the cells of the raster (R192). -/
theorem offers_rasterCells (hhost : s.host = []) (hp : s.phase = phBody)
    (hgrid : ∀ j, j < s.w * s.h → (Memory.read s.grid j).isSome = true) : s.Offers s.rasterCells := by
  intro k b rest hbyte
  obtain ⟨hk, -⟩ := List.getElem?_eq_some_iff.1 hbyte
  rw [State.rasterCells, Memory.contents_length] at hk
  obtain ⟨v, hread⟩ := Option.isSome_iff_exists.1 (hgrid k hk)
  obtain rfl : v = b := Option.some.inj ((Memory.contents_getElem?_of_read hk hread).symm.trans hbyte)
  have hdisp : Dispatches (s.sentAt s.rasterCells k rest) .serPix :=
    .serPix hp (by rwa [limit_sentAt, limit_body hp])
  rw [step_of_dispatches (s := s.sentAt ..) hhost hdisp, hp]
  exact execSerPix_of_read hread

/-- The state in which stage RasterSerializer enters BODY: the header is sent and the sink has the answers `rest`
left. -/
def State.bodyStart (s : State) (rest : List SinkAnswer) : State :=
  (s.sentAt (header s.w s.h) (hlen s.w s.h) rest).goto phBody

@[simp] theorem bodyStart_phase (s : State) (rest : List SinkAnswer) : (s.bodyStart rest).phase = phBody := rfl
@[simp] theorem bodyStart_w (s : State) (rest : List SinkAnswer) : (s.bodyStart rest).w = s.w := rfl
@[simp] theorem bodyStart_h (s : State) (rest : List SinkAnswer) : (s.bodyStart rest).h = s.h := rfl
@[simp] theorem bodyStart_rasterCells (s : State) (rest : List SinkAnswer) :
    (s.bodyStart rest).rasterCells = s.rasterCells := rfl

/-- With the header accepted, SER.HEND ends HEADER (R190) and the run goes on in BODY. -/
theorem stepMany_header_accepted (hhost : s.host = []) (hp : s.phase = phHeader) (hidx : s.idx = 0)
    (hsink : s.sink = List.replicate (hlen s.w s.h) .accept ++ rest) (m : Nat) :
    stepMany (hlen s.w s.h + 1 + m) s = stepMany m (s.bodyStart rest) := by
  have hrun := (offers_header hhost hp).stepMany_accept hidx _ rest (header_length s.w s.h).ge hsink
  have hdisp : Dispatches (s.sentAt (header s.w s.h) (hlen s.w s.h) rest) .serHend :=
    .serHend hp (by rw [limit_sentAt, limit_header hp]; rfl)
  exact stepMany_add m (stepMany_succ_of_next hrun (step_of_dispatches (s := s.sentAt ..) hhost hdisp))

/-- With every pixel accepted, SER.END ends BODY (R194). -/
theorem stepMany_body_accepted (hhost : s.host = []) (hp : s.phase = phBody) (hidx : s.idx = 0)
    (hgrid : ∀ j, j < s.w * s.h → (Memory.read s.grid j).isSome = true)
    (hsink : s.sink = List.replicate (s.w * s.h) .accept ++ rest) :
    stepMany (s.w * s.h + 1) s = .next { s.sentAt s.rasterCells (s.w * s.h) rest with phase := phDone } := by
  have hlen : s.rasterCells.length = s.w * s.h := Memory.contents_length ..
  have hrun := (offers_rasterCells hhost hp hgrid).stepMany_accept hidx _ rest hlen.ge hsink
  have hdisp : Dispatches (s.sentAt s.rasterCells (s.w * s.h) rest) .serEnd :=
    .serEnd hp (by rw [limit_sentAt, limit_body hp]; rfl)
  exact stepMany_succ_of_next hrun (step_of_dispatches (s := s.sentAt ..) hhost hdisp)

/-! ## The stage -/

/-- Where stage RasterSerializer starts (R196): in HEADER with nothing sent and the raster written, and no host turn to
come. -/
structure State.SerStart (s : State) : Prop where
  host : s.host = []
  phase : s.phase = phHeader
  idx : s.idx = 0
  out : s.out = []
  outcnt : s.outcnt = 0
  grid : ∀ j, j < s.w * s.h → (Memory.read s.grid j).isSome = true

/-- What HEADER has sent is the frame's first bytes. -/
theorem State.SerStart.sentAt_header (h : s.SerStart) {k : Nat} (hk : k ≤ hlen s.w s.h) :
    s.sentAt (header s.w s.h) k rest =
      { s with out := s.rasterFrame.take k, outcnt := k, idx := k, sink := rest } := by
  rw [State.sentAt, h.out, h.outcnt, List.nil_append, Nat.zero_add, State.rasterFrame_eq,
    List.take_append_of_le_length (by rwa [header_length])]

/-- What HEADER and BODY have sent is the frame's first bytes. -/
theorem State.SerStart.bodyStart_sentAt (h : s.SerStart) (k : Nat) (answers : List SinkAnswer) :
    (s.bodyStart answers).sentAt s.rasterCells k rest =
      { s with phase := phBody, out := s.rasterFrame.take (hlen s.w s.h + k), outcnt := hlen s.w s.h + k, idx := k,
               sink := rest } := by
  rw [State.bodyStart, h.sentAt_header le_rfl, State.rasterFrame_eq, ← header_length,
    List.take_length_add_append, List.take_left]
  rfl

/-- R196 with every byte accepted. -/
theorem State.SerStart.stepMany_frame_accepted (h : s.SerStart)
    (hsink : s.sink = List.replicate s.rasterFrame.length .accept ++ rest) :
    stepMany (s.rasterFrame.length + 2) s =
      .next { s with phase := phDone, idx := s.w * s.h, out := s.rasterFrame, outcnt := s.rasterFrame.length,
                     sink := rest } := by
  rw [State.rasterFrame_length, List.replicate_add, List.append_assoc] at hsink
  have hall : s.rasterFrame.take (hlen s.w s.h + s.w * s.h) = s.rasterFrame :=
    List.take_of_length_le (State.rasterFrame_length s).le
  have hbody := stepMany_body_accepted (s := s.bodyStart (List.replicate (s.w * s.h) .accept ++ rest)) (rest := rest)
    h.host rfl rfl h.grid rfl
  rw [bodyStart_rasterCells, bodyStart_w, bodyStart_h, h.bodyStart_sentAt, hall] at hbody
  rw [State.rasterFrame_length, show hlen s.w s.h + s.w * s.h + 2 = hlen s.w s.h + 1 + (s.w * s.h + 1) by omega,
    stepMany_header_accepted h.host h.phase h.idx hsink, hbody]

/-- R196 with a header byte refused. -/
theorem State.SerStart.stepMany_header_refused (h : s.SerStart) {j : Nat} (hj : j < hlen s.w s.h)
    (hsink : s.sink = List.replicate j .accept ++ .fail :: rest) :
    stepMany (j + 1) s =
      .next { s with phase := phError, err := 4, errStage := phHeader, idx := j, out := s.rasterFrame.take j,
                     outcnt := j, sink := rest } := by
  have hrun := (offers_header h.host h.phase).stepMany_fail h.idx (by rwa [header_length]) hsink
  rw [hrun, h.sentAt_header hj.le, h.phase]
  rfl

/-- R196 with a pixel byte refused. -/
theorem State.SerStart.stepMany_pixel_refused (h : s.SerStart) {k : Nat} (hk : k < s.w * s.h)
    (hsink : s.sink = List.replicate (hlen s.w s.h + k) .accept ++ .fail :: rest) :
    stepMany (hlen s.w s.h + k + 2) s =
      .next { s with phase := phError, err := 4, errStage := phBody, idx := k,
                     out := s.rasterFrame.take (hlen s.w s.h + k), outcnt := hlen s.w s.h + k, sink := rest } := by
  rw [List.replicate_add, List.append_assoc] at hsink
  have hoffers := offers_rasterCells (s := s.bodyStart (List.replicate k .accept ++ .fail :: rest)) h.host rfl h.grid
  have hbody := hoffers.stepMany_fail rfl (hk.trans_eq (Memory.contents_length ..).symm) rfl
  rw [bodyStart_phase, bodyStart_rasterCells, h.bodyStart_sentAt] at hbody
  rw [show hlen s.w s.h + k + 2 = hlen s.w s.h + 1 + (k + 1) by omega,
    stepMany_header_accepted h.host h.phase h.idx hsink, hbody]
  rfl

/-- Settles O33: every byte accepted, or one refused, in HEADER or in BODY. -/
theorem stageSerializeSendsFrame : Obligations.StageSerializeSendsFrame := by
  intro s frameBytes hhost hp hidx hout hcnt _ _ hgrid hframe
  obtain rfl : frameBytes = s.rasterFrame := hframe
  have h : s.SerStart := ⟨hhost, hp, hidx, hout, hcnt, hgrid⟩
  refine ⟨fun _ => h.stepMany_frame_accepted, fun j rest hj hsink => ?_⟩
  obtain hheader | hpixel := lt_or_ge j (hlen s.w s.h)
  · simp only [if_pos hheader]
    exact h.stepMany_header_refused hheader hsink
  · obtain ⟨k, rfl⟩ := Nat.exists_eq_add_of_le hpixel
    rw [State.rasterFrame_length] at hj
    simp only [if_neg hpixel.not_gt, Nat.add_sub_cancel_left]
    exact h.stepMany_pixel_refused (by omega) hsink

end Sys2Proof.Machine
end

section
/-! Proofs of the raster serializer family (`44_raster_serializer.md`), part 3: what OUT is at DONE (R195). -/

namespace Sys2Proof.Machine

variable {s : State}

/-- The frame of a payload and its draws (R213), through `layout_intensities`. -/
theorem frame_of_ne_nil {p draws : List Byte} (hp : p ≠ []) (hne : encodeBits (pack p) draws ≠ []) :
    frame p draws =
      .ok (serialize ⟨(dims (encodeBits (pack p) draws).length).1, (dims (encodeBits (pack p) draws).length).2,
        layoutCells (encodeBits (pack p) draws)⟩) := by
  rw [frame, if_neg hp, layout_intensities hne]
  rfl

/-- Once the raster is laid out, its frame is that of the payload and the draws: each stage's sequence is made from the
one before (I6, I8, I10, I12). -/
theorem FilledInv.frame_eq (h : FilledInv s) : frame s.payload s.drawn = .ok s.rasterFrame := by
  have hints : encodeBits (pack s.payload) s.drawn = s.intSeq := by rw [h.intSeqEq, h.bitSeqEq]
  have hpay : s.payload ≠ [] := List.ne_nil_of_length_pos ((Memory.contents_length ..).symm ▸ h.plenPos)
  have hlen : s.intSeq.length = s.nint := s.intSeq_length
  have hne : s.intSeq ≠ [] := List.ne_nil_of_length_pos (hlen ▸ (by decide : 0 < 8).trans_le h.nint_ge)
  rw [frame_of_ne_nil hpay (hints ▸ hne), hints, hlen, ← h.dimsEq, ← h.rasterEq, State.rasterFrame]

/-- Settles O54: I15 gives OUT and OUTCNT, and `FilledInv.frame_eq` the frame. -/
theorem doneMeansFrameWasSent : Obligations.DoneMeansFrameWasSent := by
  intro s hinv hp
  obtain ⟨-, hcnt, hout⟩ := hinv.done hp
  have hfilled := hinv.filledInv (by simp [State.laidOut, hp])
  exact ⟨hout, hcnt, hout ▸ hfilled.frame_eq⟩

end Sys2Proof.Machine
end

section
/-! Proofs of the host interface family (`45_host_interface.md`), part 1: NOP, LOAD and START, and what is refused (R203
to R206). -/

namespace Sys2Proof.Machine

variable {s t : State} {d : Byte} {w : CmdWord}

/-! ## Command words by the range of their value (R104, R105) -/

/-- The word's value divided by 256 is its `op`. -/
theorem exists_eq_cmdWord_of_div {op : BitVec 2} (h : w.toNat / 256 = op.toNat) : ∃ d, w = cmdWord op d := by
  obtain ⟨op', d, rfl⟩ := exists_eq_cmdWord w
  have hd : d.toNat < 256 := d.isLt
  rw [cmdWord_toNat] at h
  obtain rfl : op' = op := BitVec.eq_of_toNat_eq (by omega)
  exact ⟨d, rfl⟩

theorem decode_cmd_of_lt (h : w.toNat < 0x100) : decode (.cmd w) = .ok .nop := by
  obtain ⟨d, rfl⟩ := exists_eq_cmdWord_of_div (op := 0) (Nat.div_eq_of_lt h)
  exact decode_cmdWord 0 d

theorem decode_cmd_load (h : w.toNat = 0x100 + d.toNat) : decode (.cmd w) = .ok (.load d) :=
  commandWordTable 1 d w h

theorem decode_cmd_start (hlo : 0x200 ≤ w.toNat) (hhi : w.toNat < 0x300) : decode (.cmd w) = .ok .start := by
  obtain ⟨d, rfl⟩ := exists_eq_cmdWord_of_div (w := w) (op := 2) (by simp; omega)
  exact decode_cmdWord 2 d

theorem decode_cmd_reserved (h : 0x300 ≤ w.toNat) : decode (.cmd w) = .error .reservedCommand := by
  have hlt : w.toNat < 1024 := w.isLt
  obtain ⟨d, rfl⟩ := exists_eq_cmdWord_of_div (w := w) (op := 3) (by simp; omega)
  exact decode_cmdWord 3 d

/-! ## What each transaction answers, case by case -/

theorem execLoad_of_busy (hp : s.phase ≠ phIdle) : execLoad d s = .next s.refuse := if_pos hp

theorem execLoad_of_full (hp : s.phase = phIdle) (h : s.plen = s.cfg.payloadCap) :
    execLoad d s = .next (s.raise .allocation phIdle).accept := by
  rw [execLoad, if_neg (not_not.2 hp), if_pos h]

theorem execLoad_of_lt (hp : s.phase = phIdle) (h : s.plen < s.cfg.payloadCap) :
    execLoad d s = .next (State.accept { s with pay := Memory.write s.pay s.plen d, plen := s.plen + 1 }) := by
  rw [execLoad, if_neg (not_not.2 hp), if_neg h.ne, memWrite_of_lt h]

theorem execStart_of_busy (hp : s.phase ≠ phIdle) : execStart s = .next s.refuse := if_pos hp

theorem execStart_of_empty (hp : s.phase = phIdle) (h : s.plen = 0) :
    execStart s = .next (s.raise .emptySource phIdle).accept := by
  rw [execStart, if_neg (not_not.2 hp), if_pos h]

theorem execStart_of_gt (hp : s.phase = phIdle) (hpos : 0 < s.plen) (h : s.cfg.bitsCap < 8 * s.plen) :
    execStart s = .next (s.raise .allocation phPack).accept := by
  rw [execStart, if_neg (not_not.2 hp), if_neg hpos.ne', if_pos h]

theorem execStart_of_le (hp : s.phase = phIdle) (hpos : 0 < s.plen) (h : 8 * s.plen ≤ s.cfg.bitsCap) :
    execStart s = .next (State.accept (State.goto phPack { s with nbits := 0 })) := by
  rw [execStart, if_neg (not_not.2 hp), if_neg hpos.ne', if_neg (Nat.not_lt.2 h)]

/-- In IDLE every end of LOAD answers accepted, the error among them (R203). -/
theorem execLoad_reply (hp : s.phase = phIdle) (h : execLoad d s = .next t) : t.reply = some .accepted := by
  obtain ⟨hbusy, -⟩ | ⟨-, -, rfl⟩ | ⟨-, -, rfl⟩ := execLoad_next h
  · exact absurd hp hbusy
  · rfl
  · rfl

/-- In IDLE every end of START answers accepted, the errors among them (R203). -/
theorem execStart_reply (hp : s.phase = phIdle) (h : execStart s = .next t) : t.reply = some .accepted := by
  obtain ⟨hbusy, -⟩ | ⟨-, -, rfl⟩ | ⟨-, -, -, rfl⟩ | ⟨-, -, -, rfl⟩ := execStart_next h
  · exact absurd hp hbusy
  · rfl
  · rfl
  · rfl

/-! ## A host's turn as a step -/

/-- On the host's turn with a command word, the step performs what the word decodes to (R78, R105). -/
theorem step_of_cmd {i : Instr} {rest : List HostTurn} (hhost : s.host = .cmd w :: rest)
    (hdec : decode (.cmd w) = .ok i) : step s = exec i { s with host := rest } := by
  have hsel : nextSelector s = .cmd w := by rw [nextSelector, hhost]
  rw [step_of_ok (hsel ▸ hdec), takeTurn_eq, hhost, List.tail_cons]

/-- The reserved command word is refused in every phase (R203, R108). -/
theorem step_of_cmd_reserved {rest : List HostTurn} (hhost : s.host = .cmd w :: rest) (h : 0x300 ≤ w.toNat) :
    step s = .next { s with host := rest, reply := some .refused } := by
  have hsel : nextSelector s = .cmd w := by rw [nextSelector, hhost]
  rw [step_of_error (hsel ▸ decode_cmd_reserved h), takeTurn_eq, hhost, List.tail_cons, noOperation, State.refuse]

/-- The reset input's turn (R250). -/
theorem step_of_rst {rest : List HostTurn} (hhost : s.host = .rst :: rest) :
    step s = .next (State.resetBlock { s with host := rest }).accept := by
  have hsel : nextSelector s = encode .rst := by rw [nextSelector, hhost]; rfl
  rw [step_of_ok (hsel ▸ decode_encode .rst), takeTurn_eq, hhost, List.tail_cons, exec_rst]

/-! ## The statements -/

/-- Settles O8: the first branch of LOAD and of START, the reserved word's step, and the other branches' answers. -/
theorem refusalChangesNothing : Obligations.RefusalChangesNothing := by
  refine ⟨fun s d hp => ⟨execLoad_of_busy hp, execStart_of_busy hp⟩, fun s w rest => step_of_cmd_reserved, ?_⟩
  rintro s t d hp (hload | hstart)
  · exact execLoad_reply hp hload
  · exact execStart_reply hp hstart

/-- Settles O34: the words below 256 have `op` 00, and NOP is one answer. -/
theorem nopIsAcceptedEverywhere : Obligations.NopIsAcceptedEverywhere :=
  ⟨fun _ => decode_cmd_of_lt, fun _ => rfl⟩

/-- Settles O35: the three branches of LOAD; a write changes one cell. -/
theorem loadAppendsOneByte : Obligations.LoadAppendsOneByte :=
  ⟨fun _ _ => decode_cmd_load, fun _ _ => ⟨execLoad_of_busy, execLoad_of_full, fun hp hroom =>
    ⟨_, execLoad_of_lt hp hroom, Memory.read_write_same .., fun _ hj => Memory.read_write_other _ hj _, rfl⟩⟩⟩

/-- Settles O36: the four branches of START. -/
theorem startChecksThenRuns : Obligations.StartChecksThenRuns :=
  ⟨fun _ => decode_cmd_start, fun _ => ⟨execStart_of_busy, execStart_of_empty, execStart_of_gt, execStart_of_le⟩⟩

end Sys2Proof.Machine
end

section
/-! Proofs of the host interface family (`45_host_interface.md`), part 2: the payload read back from a frame's body (R92,
R141, R175, R213). -/

namespace Sys2Proof.Machine

variable {p draws body : List Byte}

/-! ## The payload from the parities of body bytes (R141) -/

/-- The eight bits of a byte give the byte back (R62, R141). -/
theorem byteOfBits_byteBits (b : Byte) : byteOfBits (byteBits b) = b := by
  apply BitVec.eq_of_toNat_eq
  have hlt : b.toNat < 256 := b.isLt
  have hsum := toNat_eq_sum_bitOf b
  simp only [List.range_succ, List.range_zero, List.nil_append, List.cons_append, List.map_cons, List.map_nil,
    List.sum_cons, List.sum_nil, Nat.reduceSub] at hsum
  simp only [byteOfBits, byteBits, List.map_cons, List.map_nil, List.foldl_cons, List.foldl_nil, BitVec.toNat_ofNat]
  omega

/-- The parities of a list of bytes, the lowest bit of each. -/
def parities (body : List Byte) : List Bit := body.map (fun v => bitOf v 0)

/-- The first byte read back comes from the first eight body bytes, the others from the rest. -/
theorem readBack_succ (n : Nat) (body : List Byte) :
    readBack (n + 1) body = byteOfBits ((parities body).take 8) :: readBack n (body.drop 8) := by
  simp only [readBack, List.range_succ_eq_map, List.map_cons, List.map_map, parities, List.map_take, Nat.mul_zero,
    List.drop_zero, List.cons.injEq, true_and]
  refine List.map_congr_left fun j _ => ?_
  simp only [Function.comp_apply, List.drop_drop, Nat.mul_succ, Nat.add_comm]

/-- A body whose first parities are the payload's bits gives the payload back: eight parities a byte. -/
theorem readBack_of_parities (h : (parities body).take (8 * p.length) = pack p) : readBack p.length body = p := by
  induction p generalizing body with
  | nil => rfl
  | cons b p ih =>
    rw [List.length_cons, Nat.mul_succ, Nat.add_comm, List.take_add, pack_cons] at h
    have hlong : 8 ≤ (parities body).length := by
      by_contra hshort
      have hlen := congrArg List.length h
      simp only [List.length_append, List.length_take, List.length_drop, byteBits_length] at hlen
      omega
    obtain ⟨hfirst, hothers⟩ := List.append_inj h (List.length_take_of_le hlong)
    rw [parities, ← List.map_drop] at hothers
    rw [List.length_cons, readBack_succ, hfirst, byteOfBits_byteBits, ih hothers]

/-- A body byte with the parity of each of the payload's bits, in their places, is enough. -/
theorem readBack_of_bytes
    (h : ∀ (i : Nat) (b : Bit), (pack p)[i]? = some b → ∃ v : Byte, body[i]? = some v ∧ v.toNat % 2 = b.toNat) :
    readBack p.length body = p := by
  refine readBack_of_parities (List.ext_getElem? fun i => ?_)
  obtain hi | hi := lt_or_ge i (8 * p.length)
  · have hlt : i < (pack p).length := hi.trans_eq (pack_length p).symm
    have hbit := List.getElem?_eq_getElem hlt
    obtain ⟨v, hv, hparity⟩ := h i _ hbit
    have hlow : bitOf v 0 = (pack p)[i] := BitVec.eq_of_toNat_eq (by rw [bitOf_toNat, ← hparity]; simp)
    rw [List.getElem?_take_of_lt hi, parities, List.getElem?_map, hv, Option.map_some, hlow, hbit]
  · rw [List.getElem?_take_eq_none hi, List.getElem?_eq_none (by rwa [pack_length])]

/-! ## The body of a frame -/

theorem encodeBits_pack_length (hlen : draws.length = 8 * p.length) :
    (encodeBits (pack p) draws).length = 8 * p.length := by
  rw [encodeBits_length, pack_length, hlen, min_self]

/-- A frame with as many draws as bits is the header of its dimensions and the raster's cells (R213). -/
theorem frame_ok {out : List Byte} (hp : p ≠ []) (hlen : draws.length = 8 * p.length)
    (h : frame p draws = .ok out) :
    out = header (dims (8 * p.length)).1 (dims (8 * p.length)).2 ++ layoutCells (encodeBits (pack p) draws) := by
  have hcount := encodeBits_pack_length hlen
  have hpos : 0 < p.length := List.length_pos_iff.2 hp
  rw [frame_of_ne_nil hp (List.ne_nil_of_length_pos (by omega)), hcount] at h
  exact (Except.ok.inj h).symm

/-- Under the draw contract the cell of an intensity is the intensity: it has the bit's parity and is not 0 (R154, R171). -/
theorem cellOf_symbol {b : Bit} {c : Byte} (hlo : Config.drawLo ≤ c.toNat) (hhi : c.toNat ≤ Config.drawHi) :
    (cellOf (symbol b c)).toNat % 2 = b.toNat ∧ 1 ≤ (cellOf (symbol b c)).toNat ∧
      (cellOf (symbol b c)).toNat ≤ 255 := by
  obtain ⟨hparity, hpos, hle, -⟩ := symbolKeepsParityAndRange b c hlo hhi
  rw [cellOf_toNat, min_eq_left hle]
  exact ⟨hparity, hpos, hle⟩

/-- The body byte that carries a bit of the payload (R154, R175). -/
theorem layoutCells_encode_data {i : Nat} {b : Bit} (hlen : draws.length = 8 * p.length) (hrange : RngInRange draws)
    (hb : (pack p)[i]? = some b) :
    ∃ v : Byte, (layoutCells (encodeBits (pack p) draws))[i]? = some v ∧ v.toNat % 2 = b.toNat ∧ 1 ≤ v.toNat ∧
      v.toNat ≤ 255 := by
  obtain ⟨hi, -⟩ := List.getElem?_eq_some_iff.1 hb
  rw [pack_length] at hi
  have hdraw : draws[i]? = some draws[i] := List.getElem?_eq_getElem (by omega)
  obtain ⟨hlo, hhi⟩ := hrange _ (List.mem_of_getElem? hdraw)
  refine ⟨_, ?_, cellOf_symbol hlo hhi⟩
  rw [layoutCells_getElem?_data (by rwa [encodeBits_pack_length hlen]), encodeBits_getElem? hb hdraw, Option.map_some]

/-- Settles O57: the data bytes by the draw contract, the padding by `layoutCells`, and the payload from the parities. -/
theorem frameCarriesPayload : Obligations.FrameCarriesPayload := by
  intro p draws out hp hlen hrange hframe
  have hcount := encodeBits_pack_length hlen
  have hpos : 0 < p.length := List.length_pos_iff.2 hp
  have hsize := layoutCells_length (List.ne_nil_of_length_pos (l := encodeBits (pack p) draws) (by omega))
  have hdata := fun i b => layoutCells_encode_data (i := i) (b := b) hlen hrange
  refine ⟨_, frame_ok hp hlen hframe, hcount ▸ hsize, hdata, fun i hge hlt => ?_, readBack_of_bytes fun i b hb => ?_⟩
  · exact layoutCells_getElem?_pad (hcount ▸ hge) (hcount ▸ hlt)
  · obtain ⟨v, hv, hparity, -⟩ := hdata i b hb
    exact ⟨v, hv, hparity⟩

end Sys2Proof.Machine
end

section
/-! Proofs of the host interface family (`45_host_interface.md`), part 3: a whole run, from RST to DONE (R214, R253). The
stages' statements are chained by what one stage leaves for the next. -/

namespace Sys2Proof.Machine

variable {s s₀ t : State} {p q : List Byte} {d : Byte} {turns : List HostTurn} {ph : PhaseCode}
  {k m : Nat} {P Q : State → Prop}

/-! ## Runs by what holds at their end -/

/-- The run of `k` steps from `s` ends in a state that has the property. -/
def Reaches (k : Nat) (s : State) (P : State → Prop) : Prop := ∃ t, stepMany k s = .next t ∧ P t

theorem Reaches.zero (h : P s) : Reaches 0 s P := ⟨s, rfl, h⟩

theorem Reaches.of_step (h : step s = .next t) (ht : P t) : Reaches 1 s P := ⟨t, stepMany_succ 0 h, ht⟩

theorem Reaches.trans (h : Reaches k s P) (hnext : ∀ t, P t → Reaches m t Q) : Reaches (k + m) s Q := by
  obtain ⟨t, hrun, ht⟩ := h
  obtain ⟨u, hrun', hu⟩ := hnext t ht
  exact ⟨u, (stepMany_add m hrun).trans hrun', hu⟩

/-- Every state of a run from a state with the invariants has them (R130). -/
theorem Inv.stepMany_keeps (hinv : Inv s) (h : stepMany k s = .next t) : Inv t := by
  induction k generalizing s with
  | zero => exact next_inj h ▸ hinv
  | succ k ih =>
    cases hs : step s with
    | next u => exact ih (everyStepKeepsInvariants s u hinv hs) (stepMany_succ k hs ▸ h)
    | fault r | refused r => simp [stepMany, hs] at h

/-! ## Between the stages of a run -/

/-- How many bytes the frame of `n` intensities has: its header's and its raster's (R185). -/
def frameLength (n : Nat) : Nat := hlen (dims n).1 (dims n).2 + cells n

/-- Where a run begun in `s₀` stands between two stages: in phase `ph` with the payload `p` in PAY and the host's `turns` to
come, the ports' answers used so far being the first of those that `s₀` has, and every byte sent accepted. -/
structure State.AtStage (s₀ : State) (p : List Byte) (turns : List HostTurn) (ph : PhaseCode) (s : State) : Prop where
  inv : Inv s
  host : s.host = turns
  phase : s.phase = ph
  idx : ph ≠ phDone → s.idx = 0
  cfg : s.cfg = s₀.cfg
  payload : s.payload = p
  draws : s.drawn ++ s.draws = s₀.draws
  sink : List.replicate s.outcnt .accept ++ s.sink = s₀.sink

namespace State.AtStage

theorem plen (h : AtStage s₀ p turns ph s) : s.plen = p.length := by
  rw [← h.payload, State.payload, Memory.contents_length]

theorem nbits (h : AtStage s₀ p turns ph s) (hp : s.packed) : s.nbits = 8 * p.length := by
  rw [(h.inv.packedInv hp).nbitsEq, h.plen]

theorem nint (h : AtStage s₀ p turns ph s) (hp : s.encoded) : s.nint = 8 * p.length := by
  have henc := h.inv.encodedInv hp
  rw [henc.nintEq, henc.nbitsEq, h.plen]

theorem dims_eq (h : AtStage s₀ p turns ph s) (hp : s.dimensioned) : (s.w, s.h) = dims (8 * p.length) := by
  have hdim := h.inv.dimensionedInv hp
  rw [hdim.dimsEq, hdim.nintEq, hdim.nbitsEq, h.plen]

theorem rasterFrame_length (h : AtStage s₀ p turns ph s) (hp : s.dimensioned) :
    s.rasterFrame.length = frameLength (8 * p.length) := by
  rw [State.rasterFrame_length, frameLength, cells, ← h.dims_eq hp]

/-- One draw has been taken for each bit of the payload (R261). -/
theorem drawn_eq {cs rest : List Byte} (h : AtStage s₀ p turns ph s) (hp : s.encoded) (hdraws : s₀.draws = cs ++ rest)
    (hlen : cs.length = 8 * p.length) : s.drawn = cs :=
  List.append_inj_left (h.draws.trans hdraws) (by rw [h.inv.drawnCount, h.nint hp, hlen])

/-! ## The host's turns -/

/-- RST leaves the machine in IDLE with no payload (R250). -/
theorem of_rst (h : s₀.host = .rst :: turns) : Reaches 1 s₀ (AtStage s₀ [] turns phIdle) :=
  .of_step (step_of_rst h) ⟨Inv.resetWith .., rfl, rfl, fun _ => rfl, rfl, rfl, rfl, rfl⟩

/-- A LOAD with room in PAY appends its byte to the payload (R205). -/
theorem run_load (h : AtStage s₀ p (.cmd (cmdWord 1 d) :: turns) phIdle s) (hroom : p.length < s₀.cfg.payloadCap) :
    Reaches 1 s (AtStage s₀ (p ++ [d]) turns phIdle) := by
  have hplen : s.plen < s.cfg.payloadCap := by rwa [h.plen, h.cfg]
  have hstep := (step_of_cmd h.host (decode_encode (.load d))).trans (execLoad_of_lt h.phase hplen)
  have hpay := (Memory.contents_write_next s.pay s.plen d).trans (congrArg (· ++ [d]) h.payload)
  exact .of_step hstep ⟨everyStepKeepsInvariants _ _ h.inv hstep, rfl, h.phase, h.idx, h.cfg, hpay, h.draws, h.sink⟩

/-- One LOAD for each byte appends them in order. -/
theorem run_loads (h : AtStage s₀ p (q.map (fun d => .cmd (cmdWord 1 d)) ++ turns) phIdle s)
    (hroom : p.length + q.length ≤ s₀.cfg.payloadCap) : Reaches q.length s (AtStage s₀ (p ++ q) turns phIdle) := by
  induction q generalizing p s with
  | nil => exact .zero (by simpa using h)
  | cons d q ih =>
    rw [List.length_cons] at hroom
    rw [List.length_cons, Nat.add_comm, ← List.singleton_append, ← List.append_assoc]
    refine (run_load h (by omega)).trans fun t ht => ih ht ?_
    rw [List.length_append, List.length_singleton]
    omega

/-- START begins the run where there is a payload and BITS has room for its bits (R206). -/
theorem run_start (h : AtStage s₀ p (.cmd (cmdWord 2 0) :: turns) phIdle s) (hp : p ≠ [])
    (hroom : 8 * p.length ≤ s₀.cfg.bitsCap) : Reaches 1 s (AtStage s₀ p turns phPack) := by
  have hpos : 0 < s.plen := h.plen ▸ List.length_pos_iff.2 hp
  have hbits : 8 * s.plen ≤ s.cfg.bitsCap := by rwa [h.plen, h.cfg]
  have hstep := (step_of_cmd h.host (decode_encode .start)).trans (execStart_of_le h.phase hpos hbits)
  exact .of_step hstep
    ⟨everyStepKeepsInvariants _ _ h.inv hstep, rfl, rfl, fun _ => rfl, h.cfg, h.payload, h.draws, h.sink⟩

/-! ## The sequencer's stages -/

/-- Stage PACK with room in INT leads to ENCODE (R145). -/
theorem run_pack (h : AtStage s₀ p [] phPack s) (hroom : 8 * p.length ≤ s₀.cfg.intCap) :
    Reaches (8 * p.length + 1) s (AtStage s₀ p [] phEncode) := by
  obtain ⟨hpos, -, -, hbits, -, -⟩ := h.inv.packing h.phase
  obtain ⟨t, hrun, -, -, -, hfits, -⟩ := stagePackComputesPack s h.host h.phase (h.idx (by decide)) hpos hbits
    fun j => (h.inv.payWritten j).2
  have hend := hfits (by rwa [h.plen, h.cfg])
  rw [h.plen] at hrun
  have hinv := h.inv.stepMany_keeps hrun
  generalize t.bits = bits at hend
  subst hend
  exact ⟨_, hrun, hinv, h.host, rfl, fun _ => rfl, h.cfg, h.payload, h.draws, h.sink⟩

/-- Stage ENCODE with enough draws leads to DIM (R158). -/
theorem run_encode (h : AtStage s₀ p [] phEncode s) (hdraws : 8 * p.length ≤ s₀.draws.length) :
    Reaches (8 * p.length + 1) s (AtStage s₀ p [] phDim) := by
  obtain ⟨hidx, -, hroom, -⟩ := h.inv.encoding h.phase
  have hpacked : s.packed := by simp [State.packed, h.phase]
  have hnbits := h.nbits hpacked
  have hcount : s.drawn.length + s.draws.length = s₀.draws.length := by rw [← List.length_append, h.draws]
  rw [h.inv.drawnCount, ← hidx, h.idx (by decide), Nat.zero_add] at hcount
  obtain ⟨t, hrun, -, -, -, hend⟩ := stageEncodeComputesEncode s (s.draws.take s.nbits) (s.draws.drop s.nbits) h.host
    h.phase (h.idx (by decide)) (h.inv.packedInv hpacked).nbits_ge hroom (fun j => (h.inv.bitsWritten j).2)
    (List.take_append_drop ..).symm (List.length_take_of_le (by omega))
  have hinv := h.inv.stepMany_keeps hrun
  have hports : (s.drawn ++ s.draws.take s.nbits) ++ s.draws.drop s.nbits = s₀.draws := by
    rw [List.append_assoc, List.take_append_drop, h.draws]
  generalize t.int = int at hend
  subst hend
  exact ⟨_, hnbits ▸ hrun, hinv, h.host, rfl, fun _ => rfl, h.cfg, h.payload, hports, h.sink⟩

/-- Stage RasterLayout with room in GRID leads to HEADER (R180). -/
theorem run_layout (h : AtStage s₀ p [] phDim s) (hroom : cells (8 * p.length) ≤ s₀.cfg.gridCap) :
    Reaches (1 + cells (8 * p.length) + 1) s (AtStage s₀ p [] phHeader) := by
  have hencoded : s.encoded := by simp [State.encoded, h.phase]
  have hnint := h.nint hencoded
  have hge := (h.inv.encodedInv hencoded).nint_ge
  obtain ⟨t, hrun, -, -, -, hend⟩ := stageLayoutComputesLayout s h.host h.phase (by omega) (by rwa [hnint, h.cfg])
    fun j => (h.inv.intWritten j).2
  have hinv := h.inv.stepMany_keeps hrun
  generalize t.grid = grid, t.w = width, t.h = height at hend
  subst hend
  exact ⟨_, hnint ▸ hrun, hinv, h.host, rfl, fun _ => rfl, h.cfg, h.payload, h.draws, h.sink⟩

/-- In HEADER the invariants give what stage RasterSerializer starts from. -/
theorem serStart (h : AtStage s₀ p [] phHeader s) : s.SerStart := by
  have hidx := h.idx (by decide)
  obtain ⟨-, hcnt, hout⟩ := h.inv.heading h.phase
  have hgrid := (h.inv.filledInv (by simp [State.laidOut, h.phase])).gridWritten
  exact ⟨h.host, h.phase, hidx, by rw [hout, hidx, List.take_zero], by rw [hcnt, hidx], fun j => (hgrid j).2⟩

/-- Stage RasterSerializer with every byte accepted leads to DONE (R196). -/
theorem run_serialize {rest : List SinkAnswer} (h : AtStage s₀ p [] phHeader s)
    (hsink : s₀.sink = List.replicate (frameLength (8 * p.length)) .accept ++ rest) :
    Reaches (frameLength (8 * p.length) + 2) s
      (AtStage s₀ p [] phDone) := by
  rw [← h.rasterFrame_length (by simp [State.dimensioned, h.phase])] at hsink ⊢
  have hports : s.sink = s₀.sink := by rw [← h.sink, h.serStart.outcnt]; rfl
  have hrun := h.serStart.stepMany_frame_accepted (hports.trans hsink)
  exact ⟨_, hrun, h.inv.stepMany_keeps hrun, h.host, rfl, fun hne => absurd rfl hne, h.cfg, h.payload, h.draws,
    hsink.symm⟩

end State.AtStage

/-! ## The whole run -/

/-- The host's turns of a run lead to PACK with the payload loaded (R253). -/
theorem runScript_reaches_pack (hp : p ≠ []) (hpay : p.length ≤ s.cfg.payloadCap)
    (hbits : 8 * p.length ≤ s.cfg.bitsCap) (hhost : s.host = runScript p) :
    Reaches (1 + p.length + 1) s (State.AtStage s p [] phPack) :=
  ((State.AtStage.of_rst hhost).trans fun _ ht => ht.run_loads (by simpa using hpay)).trans
    fun _ ht => ht.run_start hp hbits

/-- With room in the buffers and the ports' answers there, a run reaches DONE after the steps of R132 and R253. -/
theorem run_reaches_done {rest : List SinkAnswer} (hp : p ≠ []) (hpay : p.length ≤ s.cfg.payloadCap)
    (hbits : 8 * p.length ≤ s.cfg.bitsCap) (hint : 8 * p.length ≤ s.cfg.intCap)
    (hgrid : cells (8 * p.length) ≤ s.cfg.gridCap) (hhost : s.host = runScript p)
    (hdraws : 8 * p.length ≤ s.draws.length)
    (hsink : s.sink = List.replicate (frameLength (8 * p.length)) .accept ++ rest) :
    Reaches (runSteps p.length) s (State.AtStage s p [] phDone) := by
  have hrun := ((((runScript_reaches_pack hp hpay hbits hhost).trans fun _ ht => ht.run_pack hint).trans
    fun _ ht => ht.run_encode hdraws).trans fun _ ht => ht.run_layout hgrid).trans fun _ ht => ht.run_serialize hsink
  convert hrun using 1
  unfold runSteps frameLength
  omega

/-- What a frame carries, read in OUT past the header (R214). -/
theorem out_carries_payload {cs out : List Byte} {w h : Nat} (hp : p ≠ []) (hcount : cs.length = 8 * p.length)
    (hrange : RngInRange cs) (hframe : frame p cs = .ok out) (hdims : (w, h) = dims (8 * p.length)) :
    (∀ (i : Nat) (b : Bit), (pack p)[i]? = some b →
      ∃ v : Byte, out[hlen w h + i]? = some v ∧ v.toNat % 2 = b.toNat ∧ 1 ≤ v.toNat ∧ v.toNat ≤ 255) ∧
    (∀ i, 8 * p.length ≤ i → i < w * h → out[hlen w h + i]? = some 0) ∧
    readBack p.length (out.drop (hlen w h)) = p := by
  obtain ⟨body, hout, -, hdata, hpad, hback⟩ := frameCarriesPayload p cs out hp hcount hrange hframe
  rw [← hdims] at hout
  have hsize : w * h = cells (8 * p.length) := by rw [cells, ← hdims]
  have hbyte (i : Nat) : out[hlen w h + i]? = body[i]? := by rw [hout, getElem?_append_at (header_length w h)]
  have hdrop : out.drop (hlen w h) = body := by rw [hout, ← header_length, List.drop_left]
  simp only [hbyte, hdrop, hsize]
  exact ⟨hdata, hpad, hback⟩

/-- Settles O56: the run reaches DONE, where the invariants say what it leaves in the registers and in OUT. -/
theorem wholeRunProducesFrame : Obligations.WholeRunProducesFrame := by
  intro s p cs drawsLeft sinkLeft hp hpay hbits hint hgrid hlen hhost hdraws hsink
  have henough : 8 * p.length ≤ s.draws.length := by rw [hdraws, List.length_append, hlen]; omega
  obtain ⟨t, hrun, hend⟩ := run_reaches_done hp hpay hbits hint hgrid hhost henough hsink
  have hlaid : t.laidOut := by simp [State.laidOut, hend.phase]
  have hdimensioned : t.dimensioned := ⟨by have := hlaid.1; omega, hlaid.2⟩
  have hencoded : t.encoded := ⟨by have := hlaid.1; omega, hlaid.2⟩
  have hpacked : t.packed := ⟨by have := hlaid.1; omega, hlaid.2⟩
  have hdims := hend.dims_eq hdimensioned
  have hasked := hend.inv.askedBounds
  rw [hend.nint hencoded] at hasked
  obtain ⟨-, -, hframe⟩ := doneMeansFrameWasSent t hend.inv hend.phase
  have hframe : frame p cs = .ok t.out := by
    rwa [← State.payload, hend.payload, hend.drawn_eq hencoded hdraws hlen] at hframe
  exact ⟨t, hrun, hend.phase, (hend.inv.noError (by simp [hend.phase])).err, hend.nbits hpacked, hend.nint hencoded,
    hdims, hframe, hend.inv.outCount, hasked, fun hrange => out_carries_payload hp hlen hrange hframe hdims⟩

end Sys2Proof.Machine
end

section
/-! Proofs of the exceptions family (`60_exceptions.md`): which operations raise an error, and what it leaves (R220, R221,
R229). -/

namespace Sys2Proof.Machine

variable {i : Instr} {s t : State}

/-- The rows of R221, each with its condition and the whole state that the error leaves. The order of START's two checks
(R206) and of LAY.DIM's (R176) is not part of a row: an empty payload overflows no BITS, and `cells 0` is 0. -/
inductive Raises (s : State) : Instr → State → Prop where
  | emptyPayload (h : s.plen = 0) : Raises s .start (s.raise .emptySource phIdle).accept
  | payFull (d : Byte) (h : s.plen = s.cfg.payloadCap) : Raises s (.load d) (s.raise .allocation phIdle).accept
  | bitsTooSmall (h : s.cfg.bitsCap < 8 * s.plen) : Raises s .start (s.raise .allocation phPack).accept
  | intTooSmall (h : s.cfg.intCap < s.nbits) : Raises s .packEnd (s.raise .allocation phEncode)
  | gridTooSmall (h : s.cfg.gridCap < cells s.nint) : Raises s .layDim ((withDims s).raise .allocation phDim)
  | noIntensities (h : s.nint = 0) : Raises s .layDim (s.raise .emptyInput phDim)
  | headerByteFails {rest : List SinkAnswer} (h : s.sink = .fail :: rest) :
      Raises s .serHdr (State.raise .io phHeader { s with sink := rest })
  | pixelFails {rest : List SinkAnswer} (h : s.sink = .fail :: rest) :
      Raises s .serPix (State.raise .io phBody { s with sink := rest })

/-- Emit enters ERROR by a FAIL of the sink only (R210). -/
theorem emit_enters_error {b : Byte} {stage : PhaseCode} (h : emit b stage s = .next t) (hs : s.phase ≠ phError)
    (ht : t.phase = phError) :
    ∃ rest, s.sink = .fail :: rest ∧ t = State.raise .io stage { s with sink := rest } := by
  obtain ⟨-, rfl⟩ | ⟨rest, -, rfl⟩ | hfail := emit_next h
  · exact absurd ht hs
  · exact absurd ht hs
  · exact hfail

/-- An operation that enters ERROR does so by a row of R221. The other ends keep PHASE or go to another phase. -/
theorem Raises.of_exec (h : exec i s = .next t) (hs : s.phase ≠ phError) (ht : t.phase = phError) : Raises s i t := by
  cases i with
  | packBit => obtain ⟨byt, -, -, rfl⟩ := execPackBit_next h; exact absurd ht hs
  | packEnd =>
    obtain ⟨hcap, rfl⟩ | ⟨-, rfl⟩ := execPackEnd_next h
    · exact .intTooSmall hcap
    · simp at ht
  | encSym => obtain ⟨-, rfl⟩ | ⟨c, rest, b, -, -, -, rfl⟩ := execEncSym_next h <;> exact absurd ht hs
  | encEnd => obtain rfl := execEncEnd_next h; simp at ht
  | layDim =>
    obtain ⟨hzero, rfl⟩ | ⟨-, hcap, rfl⟩ | ⟨-, -, rfl⟩ := execLayDim_next h
    · exact .noIntensities hzero
    · exact .gridTooSmall hcap
    · simp at ht
  | layCell => obtain ⟨g, -, -, rfl⟩ := execLayCell_next h; exact absurd ht hs
  | layEnd => obtain rfl := execLayEnd_next h; simp at ht
  | serHdr =>
    obtain ⟨b, -, h⟩ := execSerHdr_next h
    obtain ⟨rest, hfail, rfl⟩ := emit_enters_error h hs ht
    exact .headerByteFails hfail
  | serHend => obtain rfl := execSerHend_next h; simp at ht
  | serPix =>
    obtain ⟨b, -, h⟩ := execSerPix_next h
    obtain ⟨rest, hfail, rfl⟩ := emit_enters_error h hs ht
    exact .pixelFails hfail
  | serEnd => obtain rfl := execSerEnd_next h; simp at ht
  | nop => obtain rfl := execNop_next h; exact absurd ht hs
  | load d =>
    obtain ⟨-, rfl⟩ | ⟨-, hcap, rfl⟩ | ⟨-, -, rfl⟩ := execLoad_next h
    · exact absurd ht hs
    · exact .payFull d hcap
    · exact absurd ht hs
  | start =>
    obtain ⟨-, rfl⟩ | ⟨-, hzero, rfl⟩ | ⟨-, -, hcap, rfl⟩ | ⟨-, -, -, rfl⟩ := execStart_next h
    · exact absurd ht hs
    · exact .emptyPayload hzero
    · exact .bitsTooSmall hcap
    · simp at ht
  | rd r => obtain ⟨n, -, rfl⟩ | ⟨-, rfl⟩ := execRd_next h <;> exact absurd ht hs
  | rst => obtain rfl := execRst_next h; simp at ht

/-- R230: the error entry itself writes three registers; the rest of the frame names what the rows of R221 add to it. -/
theorem Raises.frame (h : Raises s i t) :
    t = { s with phase := phError, err := t.err, errStage := t.errStage, w := t.w, h := t.h, sink := t.sink,
                 reply := t.reply } := by
  cases h <;> rfl

/-- W and H are written before the check of GRID (R176), and by no other row. -/
theorem Raises.dims_kept (h : Raises s i t) (hrow : ¬ (i = .layDim ∧ t.err = 2)) : t.w = s.w ∧ t.h = s.h := by
  cases h with
  | gridTooSmall => exact absurd ⟨rfl, rfl⟩ hrow
  | _ => exact ⟨rfl, rfl⟩

/-- Only an IoError spends an answer of the sink (R210). -/
theorem Raises.sink_kept (h : Raises s i t) (hio : t.err ≠ 4) : t.sink = s.sink := by
  cases h with
  | headerByteFails | pixelFails => exact absurd rfl hio
  | _ => rfl

/-- Settles O48: the row of R221 that the operation takes, and the frame of that row. -/
theorem errorsArePreciseAndTabled : Obligations.ErrorsArePreciseAndTabled := by
  intro i s t h hs ht
  have hraises := Raises.of_exec h hs ht
  refine ⟨?_, hraises.frame, hraises.dims_kept, hraises.sink_kept⟩
  cases hraises with
  | emptyPayload hrow => exact .inl ⟨rfl, hrow, rfl, rfl⟩
  | payFull d hrow => exact .inr (.inl ⟨⟨d, rfl⟩, hrow, rfl, rfl⟩)
  | bitsTooSmall hrow => exact .inr (.inr (.inl ⟨rfl, hrow, rfl, rfl⟩))
  | intTooSmall hrow => exact .inr (.inr (.inr (.inl ⟨rfl, hrow, rfl, rfl⟩)))
  | gridTooSmall hrow => exact .inr (.inr (.inr (.inr (.inl ⟨rfl, hrow, rfl, rfl⟩))))
  | noIntensities hrow => exact .inr (.inr (.inr (.inr (.inr (.inl ⟨rfl, hrow, rfl, rfl⟩)))))
  | headerByteFails hrow =>
    exact .inr (.inr (.inr (.inr (.inr (.inr (.inl ⟨rfl, by rw [hrow, List.head?_cons], rfl, rfl⟩))))))
  | pixelFails hrow =>
    exact .inr (.inr (.inr (.inr (.inr (.inr (.inr ⟨rfl, by rw [hrow, List.head?_cons], rfl, rfl⟩))))))

end Sys2Proof.Machine
end

section
/-! Proofs of the reset and hazards family (`70_reset_and_hazards.md`), part 1: what RST leaves as it is (R256), and the
room that the default capacities give (R265). -/

namespace Sys2Proof.Machine

/-- Settles O39: the fields of the one state that RST answers. -/
theorem resetLeavesEnvironment : Obligations.ResetLeavesEnvironment :=
  fun s => ⟨s.resetBlock.accept, exec_rst s, rfl, rfl, rfl, rfl, rfl, rfl, rfl⟩

/-- Settles O20: BITS and INT are sized for the largest payload, and a smaller payload needs no larger grid. -/
theorem defaultCapacitiesFitEveryPayload : Obligations.DefaultCapacitiesFitEveryPayload := by
  intro pred n hn hcap
  have hbits : 8 * n ≤ 8 * (pred + 1) := Nat.mul_le_mul_left 8 hcap
  exact ⟨hbits, hbits, cells_mono (by omega) hbits⟩

end Sys2Proof.Machine
end

section
/-! Proofs of the reset and hazards family (`70_reset_and_hazards.md`), part 2: what only RST can undo (R250), and the
payload of a run (R258). -/

namespace Sys2Proof.Machine

variable {i : Instr} {s t : State}

/-! ## The payload of a run (R76, R258) -/

theorem BlockKept.payload_kept (hkept : BlockKept s t) : t.pay = s.pay ∧ t.plen = s.plen := by
  rw [hkept]
  exact ⟨rfl, rfl⟩

/-- Settles O46: LOAD is the one writer of PAY and PLEN (R32), and outside IDLE it is refused. -/
theorem payloadIsImmutableInRun : Obligations.PayloadIsImmutableInRun := by
  intro s t hrun h hrst
  obtain ⟨i, hdec, h⟩ | ⟨e, -, h⟩ := step_next h
  · obtain ⟨hwriter, -⟩ := registersHaveTheirWriters i (takeTurn s) t h fun hi => hrst (hi ▸ hdec)
    by_contra hchanged
    obtain ⟨d, rfl⟩ := hwriter ((not_and_or.1 hchanged).symm)
    exact hchanged (exec_host_blockKept hrun (.inr (.inl ⟨d, rfl⟩)) h).payload_kept
  · exact (noOperation_blockKept h).payload_kept

/-! ## The registers that only RST lowers (R250) -/

/-- The registers that count what is written or sent, and the dimensions, are not lowered. -/
structure CountersRise (s t : State) : Prop where
  plen : s.plen ≤ t.plen
  nbits : s.nbits ≤ t.nbits
  nint : s.nint ≤ t.nint
  w : s.w ≤ t.w
  h : s.h ≤ t.h
  outcnt : s.outcnt ≤ t.outcnt

theorem CountersRise.refl (s : State) : CountersRise s s := ⟨le_rfl, le_rfl, le_rfl, le_rfl, le_rfl, le_rfl⟩

theorem emit_counters_rise {b : Byte} {stage : PhaseCode} (h : emit b stage s = .next t) : CountersRise s t := by
  obtain ⟨-, rfl⟩ | ⟨rest, -, rfl⟩ | ⟨rest, -, rfl⟩ := emit_next h
  · exact .refl _
  · exact { CountersRise.refl s with outcnt := Nat.le_succ _ }
  · exact { CountersRise.refl s with }

/-- A stage counts up from the length it has reached, and what PACK.END and LAY.DIM overwrite is still 0. -/
theorem Dispatches.counters_rise (hd : Dispatches s i) (hinv : Inv s) (h : exec i s = .next t) : CountersRise s t := by
  cases hd with
  | packBit hp =>
    obtain ⟨byt, -, -, rfl⟩ := execPackBit_next h
    obtain ⟨-, hidx, -⟩ := hinv.packing hp
    exact { CountersRise.refl s with nbits := hidx ▸ Nat.le_succ _ }
  | packEnd hp =>
    obtain ⟨-, rfl⟩ | ⟨-, rfl⟩ := execPackEnd_next h
    · exact { CountersRise.refl s with }
    · obtain ⟨-, -, -, -, hnint, -⟩ := hinv.packing hp
      exact { CountersRise.refl s with nint := hnint.le }
  | encSym hp =>
    obtain ⟨-, rfl⟩ | ⟨c, rest, b, -, -, -, rfl⟩ := execEncSym_next h
    · exact .refl _
    · obtain ⟨hidx, -⟩ := hinv.encoding hp
      exact { CountersRise.refl s with nint := hidx ▸ Nat.le_succ _ }
  | layDim hp =>
    obtain ⟨hw, hh⟩ := hinv.undimensioned (by simp [hp])
    obtain ⟨-, rfl⟩ | ⟨-, -, rfl⟩ | ⟨-, -, rfl⟩ := execLayDim_next h
    · exact { CountersRise.refl s with }
    · exact { CountersRise.refl s with w := hw ▸ Nat.zero_le _, h := hh ▸ Nat.zero_le _ }
    · exact { CountersRise.refl s with w := hw ▸ Nat.zero_le _, h := hh ▸ Nat.zero_le _ }
  | layCell =>
    obtain ⟨g, -, -, rfl⟩ := execLayCell_next h
    exact { CountersRise.refl s with }
  | serHdr =>
    obtain ⟨b, -, h⟩ := execSerHdr_next h
    exact emit_counters_rise h
  | serPix =>
    obtain ⟨b, -, h⟩ := execSerPix_next h
    exact emit_counters_rise h
  | encEnd | layEnd | serHend | serEnd =>
    obtain rfl := next_inj h
    exact { CountersRise.refl s with }

theorem execLoad_counters_rise {d : Byte} (h : execLoad d s = .next t) : CountersRise s t := by
  obtain ⟨-, rfl⟩ | ⟨-, -, rfl⟩ | ⟨-, -, rfl⟩ := execLoad_next h
  · exact { CountersRise.refl s with }
  · exact { CountersRise.refl s with }
  · exact { CountersRise.refl s with plen := Nat.le_succ _ }

/-- START clears NBITS, which is 0 in IDLE (I4). -/
theorem Inv.start_counters_rise (hinv : Inv s) (h : execStart s = .next t) : CountersRise s t := by
  obtain ⟨-, rfl⟩ | ⟨-, -, rfl⟩ | ⟨-, -, -, rfl⟩ | ⟨hp, -, -, rfl⟩ := execStart_next h
  · exact { CountersRise.refl s with }
  · exact { CountersRise.refl s with }
  · exact { CountersRise.refl s with }
  · obtain ⟨hnbits, -⟩ := hinv.idle hp
    exact { CountersRise.refl s with nbits := hnbits.le }

theorem BlockKept.phase_kept (hkept : BlockKept s t) : t.phase = s.phase := by rw [hkept]

theorem BlockKept.err_kept (hkept : BlockKept s t) : t.err = s.err := by rw [hkept]

theorem BlockKept.counters_rise (hkept : BlockKept s t) : CountersRise s t := by
  rw [hkept]
  exact { CountersRise.refl s with }

/-- Under the invariants no step but RST lowers one of these registers. -/
theorem step_counters_rise (hinv : Inv s) (h : step s = .next t) (hrst : decode (nextSelector s) ≠ .ok .rst) :
    CountersRise s t := by
  obtain ⟨i, hdec, h⟩ | ⟨e, -, h⟩ := step_next h
  · have hturn : CountersRise (takeTurn s) t := by
      obtain hd | rfl | ⟨d, rfl⟩ | rfl | ⟨r, rfl⟩ | rfl := decode_nextSelector_ok hdec
      · exact hd.takeTurn.counters_rise hinv.takeTurn h
      · obtain rfl := execNop_next h
        exact { CountersRise.refl s with }
      · exact execLoad_counters_rise h
      · exact hinv.takeTurn.start_counters_rise h
      · obtain ⟨n, -, rfl⟩ | ⟨-, rfl⟩ := execRd_next h <;> exact { CountersRise.refl s with }
      · exact absurd hdec hrst
    exact { hturn with }
  · exact (noOperation_blockKept h).counters_rise

/-- Settles O45: the registers rise on every step; in DONE and ERROR nothing of the block changes, and an ERR that is set
means ERROR (I2). -/
theorem onlyResetLowersRegisters : Obligations.OnlyResetLowersRegisters := by
  intro s t hinv h hrst
  have hrise := step_counters_rise hinv h hrst
  have hkept (hp : s.phase = phDone ∨ s.phase = phError) : BlockKept s t := doneAndErrorAreAbsorbing s t hp h hrst
  exact ⟨fun hp => (hkept (.inl hp)).phase_kept.trans hp, fun hp => (hkept (.inr hp)).phase_kept.trans hp, hrise.plen,
    hrise.nbits, hrise.nint, hrise.w, hrise.h, hrise.outcnt,
    fun herr => (hkept (.inr (hinv.errorPhase.2 herr))).err_kept⟩

end Sys2Proof.Machine
end
